-- ==== Sys2Proof/Word.lean ====
section
/-! DEFINITION. The word types of the block: 64-bit registers, 32-bit registers and the command word, and the
128-bit wide carrier (spec/00_scope.md R9: UW, CMDW, WW). -/

namespace Sys2Proof

/-- A 64-bit register: `OPA`, `OPB`, `RES`, `RESH` (R9 UW, R21). -/
abbrev Word64 := BitVec 64

/-- A 32-bit register or the command word: `CMD`, `STATUS`, `FLAGS` (R9 CMDW, R21). -/
abbrev Word32 := BitVec 32

/-- A pattern of the wide carrier (R9 WW, R280). -/
abbrev Word128 := BitVec 128

end Sys2Proof
end

