-- ==== Sys2Proof/Machine/Arith.lean ====
section
/-! DEFINITION. The exact functions the spec's pseudocode is written with (spec/00_scope.md R10, R12). All are
over the unbounded integers and total (R11); wrapping happens only where one of them says so. -/

namespace Sys2Proof.Machine

/-- `v[hi:lo]`, the bits `hi` down to `lo` read as an unsigned number (R10). -/
def slice (v hi lo : Nat) : Nat := v / 2 ^ lo % 2 ^ (hi + 1 - lo)

/-- `INT64_MIN` = −2^63 (R12). -/
abbrev int64Min : Int := -9223372036854775808

/-- `INT64_MAX` = 2^63 − 1 (R12). -/
abbrev int64Max : Int := 9223372036854775807

/-- `s64(b)`, the signed value of a 64-bit pattern (R12). -/
abbrev s64 (b : Word64) : Int := b.toInt

/-- `u64(b)`, the unsigned value of a 64-bit pattern (R12). -/
abbrev u64 (b : Word64) : Nat := b.toNat

/-- `bits64(v)`, the 64-bit pattern of an integer: `v mod 2^64` (R12). -/
abbrev bits64 (v : Int) : Word64 := BitVec.ofInt 64 v

/-- `wrap64(v)`, the value of `v` truncated to 64 bits two's complement (R12). -/
abbrev wrap64 (v : Int) : Int := s64 (bits64 v)

/-- `s128(hi, lo)`, the signed value of the 128-bit pattern `hi ∥ lo` (R12). -/
abbrev s128 (hi lo : Word64) : Int := (hi ++ lo : Word128).toInt

/-- `bits128(v)` = `v mod 2^128` (R296). -/
abbrev bits128 (v : Int) : Word128 := BitVec.ofInt 128 v

/-- `fits64(v)`: `INT64_MIN ≤ v ≤ INT64_MAX` (R12). -/
abbrev fits64 (v : Int) : Prop := int64Min ≤ v ∧ v ≤ int64Max

/-- Is `v` a signed 128-bit integer, a value of the wide carrier (R280, R82)? -/
abbrev fits128 (v : Int) : Prop := -2 ^ 127 ≤ v ∧ v ≤ 2 ^ 127 - 1

/-- `sgn(v)`: −1, 0 or +1 (R12). -/
abbrev sgn (v : Int) : Int := v.sign

/-- `tdiv(n, d)`, the quotient truncated toward zero (R12). -/
abbrev tdiv (n d : Int) : Int := Int.tdiv n d

/-- `trem(n, d)` = `n − d × tdiv(n, d)` (R12). -/
abbrev trem (n d : Int) : Int := Int.tmod n d

/-- `bitlen(v)`: 0 for 0, else the `k` with `2^(k−1) ≤ v < 2^k` (R12). -/
def bitlen (v : Nat) : Nat := if v = 0 then 0 else Nat.log2 v + 1

/-- `nlz64(v)` = `64 − bitlen(v)`, for `v < 2^64` (R12). -/
def nlz64 (v : Nat) : Nat := 64 - bitlen v

/-- The binary digit recurrence of `isqrt`: `k` digits of the root of `n` remain to be found, `q` holds the
higher ones. The circuit is free (R257; log 10). -/
def isqrtDigits (n : Nat) : Nat → Nat → Nat
  | 0, q => q
  | k + 1, q => if (q + 2 ^ k) * (q + 2 ^ k) ≤ n then isqrtDigits n k (q + 2 ^ k) else isqrtDigits n k q

/-- `isqrt(n)`: the `q` with `q² ≤ n < (q + 1)²` (R12). -/
def isqrt (n : Nat) : Nat := isqrtDigits n (Nat.log2 n / 2 + 1) 0

/-- `SF(s)` = `10^s`, the scale factor (R12, R100). -/
abbrev sf (sc : Nat) : Nat := 10 ^ sc

end Sys2Proof.Machine
end

