-- ==== Sys2Proof/Syntax.lean ====
section
/-! DEFINITION. The commands of the block as syntax: one constructor of `Instr` per row of
spec/opcode_table.json, its live fields as arguments (spec/30_encoding.md R72, R76). -/

namespace Sys2Proof

/-- The eight rounding modes, in the order of their codes (R74). -/
inductive RoundMode where
  | up | down | ceiling | floor | halfUp | halfDown | halfEven | unnecessary
  deriving DecidableEq, Repr

/-- The two overflow modes, in the order of their codes (R75). -/
inductive OvMode where
  | unchecked | checked
  deriving DecidableEq, Repr

/-- The formats of R72: each names the operand fields that are live. -/
inductive Format where
  | Z | S | O | R | SR | SRO | SRT
  deriving DecidableEq, Repr

/-- A command with the values of its live fields: `sc` the scale, `aux` the auxiliary scale `t` (R76). -/
inductive Instr where
  | smSf (sc : Nat)
  | smMinInt (sc : Nat)
  | smMaxInt (sc : Nat)
  | smNlz (sc : Nat)
  | sfMul (sc : Nat)
  | sfDiv (sc : Nat)
  | sfMod (sc : Nat)
  | sfDivu (sc : Nat)
  | sfMulHi (sc : Nat)
  | sfMulLo (sc : Nat)
  | umul128
  | udiv64
  | urem64
  | add (ov : OvMode)
  | sub (ov : OvMode)
  | mul (sc : Nat) (rm : RoundMode) (ov : OvMode)
  | div (sc : Nat) (rm : RoundMode) (ov : OvMode)
  | avg (rm : RoundMode)
  | pow (sc : Nat) (rm : RoundMode) (ov : OvMode)
  | sqrt (sc : Nat) (rm : RoundMode)
  | shl (ov : OvMode)
  | shr (rm : RoundMode)
  | cmp
  | isZero
  | signum
  | fromInt (sc : Nat)
  | toInt (sc : Nat) (rm : RoundMode)
  | fromDec (sc : Nat) (rm : RoundMode) (aux : Nat)
  | toDec (sc : Nat) (rm : RoundMode) (aux : Nat)
  | fromDbl (sc : Nat) (rm : RoundMode)
  | toDbl (sc : Nat) (rm : RoundMode)
  | fromFlt (sc : Nat) (rm : RoundMode)
  | toFlt (sc : Nat) (rm : RoundMode)
  deriving DecidableEq, Repr

end Sys2Proof
end

