-- ==== Sys2Proof/WellFormed.lean ====
section
/-! DEFINITION. Which commands have an encoding: the live scale and the live auxiliary scale lie in 0..18
(spec/30_encoding.md R72, spec/00_scope.md R9 SCALE_MAX). -/

namespace Sys2Proof

/-- `SCALE_MAX` (R9). -/
def scaleMax : Nat := 18

/-- The check on a live scale or auxiliary scale (R72). -/
def scaleOk (sc : Nat) : Bool := decide (sc ≤ scaleMax)

/-- A command that some legal word encodes (R72, R76). -/
def Instr.wf : Instr → Bool
  | .smSf sc => scaleOk sc
  | .smMinInt sc => scaleOk sc
  | .smMaxInt sc => scaleOk sc
  | .smNlz sc => scaleOk sc
  | .sfMul sc => scaleOk sc
  | .sfDiv sc => scaleOk sc
  | .sfMod sc => scaleOk sc
  | .sfDivu sc => scaleOk sc
  | .sfMulHi sc => scaleOk sc
  | .sfMulLo sc => scaleOk sc
  | .umul128 => true
  | .udiv64 => true
  | .urem64 => true
  | .add _ => true
  | .sub _ => true
  | .mul sc _ _ => scaleOk sc
  | .div sc _ _ => scaleOk sc
  | .avg _ => true
  | .pow sc _ _ => scaleOk sc
  | .sqrt sc _ => scaleOk sc
  | .shl _ => true
  | .shr _ => true
  | .cmp => true
  | .isZero => true
  | .signum => true
  | .fromInt sc => scaleOk sc
  | .toInt sc _ => scaleOk sc
  | .fromDec sc _ aux => scaleOk sc && scaleOk aux
  | .toDec sc _ aux => scaleOk sc && scaleOk aux
  | .fromDbl sc _ => scaleOk sc
  | .toDbl sc _ => scaleOk sc
  | .fromFlt sc _ => scaleOk sc
  | .toFlt sc _ => scaleOk sc

end Sys2Proof
end

