-- ==== Sys2Proof/Decode.lean ====
section
/-! DEFINITION. Decoding a command word, total and rejecting by name, and the encoder beside it
(spec/30_encoding.md R71 to R76). -/

namespace Sys2Proof

open Sys2Proof.Machine (slice)

/-- Is the scale field live (R72)? -/
def Format.hasScale : Format → Bool
  | .Z => false | .S => true | .O => false | .R => false | .SR => true | .SRO => true | .SRT => true

/-- Is the rounding-mode field live (R72)? -/
def Format.hasRound : Format → Bool
  | .Z => false | .S => false | .O => false | .R => true | .SR => true | .SRO => true | .SRT => true

/-- Is the overflow-mode field live (R72)? -/
def Format.hasOverflow : Format → Bool
  | .Z => false | .S => false | .O => true | .R => false | .SR => false | .SRO => true | .SRT => false

/-- Is the auxiliary-scale field live (R72)? -/
def Format.hasAux : Format → Bool
  | .Z => false | .S => false | .O => false | .R => false | .SR => false | .SRO => false | .SRT => true

/-- The code of a rounding mode (R74). -/
def RoundMode.code : RoundMode → Nat
  | .up => 0 | .down => 1 | .ceiling => 2 | .floor => 3
  | .halfUp => 4 | .halfDown => 5 | .halfEven => 6 | .unnecessary => 7

/-- The rounding mode of a 3-bit code: all eight are legal (R74). -/
def RoundMode.ofCode : Nat → RoundMode
  | 0 => .up | 1 => .down | 2 => .ceiling | 3 => .floor
  | 4 => .halfUp | 5 => .halfDown | 6 => .halfEven | _ => .unnecessary

/-- The code of an overflow mode (R75). -/
def OvMode.code : OvMode → Nat
  | .unchecked => 0 | .checked => 1

/-- The overflow mode of a 1-bit code (R75). -/
def OvMode.ofCode : Nat → OvMode
  | 0 => .unchecked | _ => .checked

/-- The fields of a command word as unsigned numbers (R71). -/
structure Fields where
  op : Nat
  sc : Nat
  rm : Nat
  ov : Nat
  aux : Nat
  rsv : Nat
  deriving DecidableEq, Repr

/-- The fields of a word: `op` 7:0, `s` 12:8, `rm` 15:13, `ov` 16, `t` 21:17, reserved 31:22 (R71). -/
def fieldsOf (w : Word32) : Fields where
  op := slice w.toNat 7 0
  sc := slice w.toNat 12 8
  rm := slice w.toNat 15 13
  ov := slice w.toNat 16 16
  aux := slice w.toNat 21 17
  rsv := slice w.toNat 31 22

/-- The word of given fields:
`op + (s << 8) + (rm << 13) + (ov << 16) + (t << 17) + (rsv << 22)` (R71). -/
def pack (f : Fields) : Word32 :=
  BitVec.ofNat 32 (f.op + f.sc * 2 ^ 8 + f.rm * 2 ^ 13 + f.ov * 2 ^ 16 + f.aux * 2 ^ 17 + f.rsv * 2 ^ 22)

/-- The opcode map: the format and the command of an operation number with these fields (R76). -/
def operation (f : Fields) : Option (Format × Instr) :=
  match f.op with
  | 0x10 => some (.S, .smSf f.sc)
  | 0x11 => some (.S, .smMinInt f.sc)
  | 0x12 => some (.S, .smMaxInt f.sc)
  | 0x13 => some (.S, .smNlz f.sc)
  | 0x14 => some (.S, .sfMul f.sc)
  | 0x15 => some (.S, .sfDiv f.sc)
  | 0x16 => some (.S, .sfMod f.sc)
  | 0x17 => some (.S, .sfDivu f.sc)
  | 0x18 => some (.S, .sfMulHi f.sc)
  | 0x19 => some (.S, .sfMulLo f.sc)
  | 0x20 => some (.Z, .umul128)
  | 0x21 => some (.Z, .udiv64)
  | 0x22 => some (.Z, .urem64)
  | 0x30 => some (.O, .add (.ofCode f.ov))
  | 0x31 => some (.O, .sub (.ofCode f.ov))
  | 0x32 => some (.SRO, .mul f.sc (.ofCode f.rm) (.ofCode f.ov))
  | 0x33 => some (.SRO, .div f.sc (.ofCode f.rm) (.ofCode f.ov))
  | 0x34 => some (.R, .avg (.ofCode f.rm))
  | 0x35 => some (.SRO, .pow f.sc (.ofCode f.rm) (.ofCode f.ov))
  | 0x36 => some (.SR, .sqrt f.sc (.ofCode f.rm))
  | 0x37 => some (.O, .shl (.ofCode f.ov))
  | 0x38 => some (.R, .shr (.ofCode f.rm))
  | 0x39 => some (.Z, .cmp)
  | 0x3A => some (.Z, .isZero)
  | 0x3B => some (.Z, .signum)
  | 0x40 => some (.S, .fromInt f.sc)
  | 0x41 => some (.SR, .toInt f.sc (.ofCode f.rm))
  | 0x42 => some (.SRT, .fromDec f.sc (.ofCode f.rm) f.aux)
  | 0x43 => some (.SRT, .toDec f.sc (.ofCode f.rm) f.aux)
  | 0x50 => some (.SR, .fromDbl f.sc (.ofCode f.rm))
  | 0x51 => some (.SR, .toDbl f.sc (.ofCode f.rm))
  | 0x52 => some (.SR, .fromFlt f.sc (.ofCode f.rm))
  | 0x53 => some (.SR, .toFlt f.sc (.ofCode f.rm))
  | _ => none

/-- Why a word is no command, one name per test of `Decode` (R72, R79). -/
inductive Illegal where
  /-- a reserved bit 31:22 is set -/
  | reservedBits
  /-- `op` is not one of the 33 numbers of R76 -/
  | unknownOperation
  /-- `s` is not live and not 0 -/
  | deadScale
  /-- `rm` is not live and not 0 -/
  | deadRound
  /-- `ov` is not live and not 0 -/
  | deadOverflow
  /-- `t` is not live and not 0 -/
  | deadAux
  /-- `s` is live and above 18 -/
  | scaleRange
  /-- `t` is live and above 18 -/
  | auxRange
  deriving DecidableEq, Repr

/-- The tests of `Decode` on the operand fields of a word of format `fmt`, in its order (R72). -/
def fieldError (fmt : Format) (f : Fields) : Option Illegal :=
  if fmt.hasScale = false ∧ f.sc ≠ 0 then some .deadScale
  else if fmt.hasRound = false ∧ f.rm ≠ 0 then some .deadRound
  else if fmt.hasOverflow = false ∧ f.ov ≠ 0 then some .deadOverflow
  else if fmt.hasAux = false ∧ f.aux ≠ 0 then some .deadAux
  else if fmt.hasScale = true ∧ f.sc > scaleMax then some .scaleRange
  else if fmt.hasAux = true ∧ f.aux > scaleMax then some .auxRange
  else none

/-- `Decode(w)`, total on all 2^32 words (R72). -/
def decode (w : Word32) : Except Illegal Instr :=
  let f := fieldsOf w
  if f.rsv ≠ 0 then .error .reservedBits
  else
    match operation f with
    | none => .error .unknownOperation
    | some (fmt, i) =>
      match fieldError fmt f with
      | some e => .error e
      | none => .ok i

/-- The fields of a command's word: its operation number (R76), its live fields, zero elsewhere. -/
def Instr.fields : Instr → Fields
  | .smSf sc => ⟨0x10, sc, 0, 0, 0, 0⟩
  | .smMinInt sc => ⟨0x11, sc, 0, 0, 0, 0⟩
  | .smMaxInt sc => ⟨0x12, sc, 0, 0, 0, 0⟩
  | .smNlz sc => ⟨0x13, sc, 0, 0, 0, 0⟩
  | .sfMul sc => ⟨0x14, sc, 0, 0, 0, 0⟩
  | .sfDiv sc => ⟨0x15, sc, 0, 0, 0, 0⟩
  | .sfMod sc => ⟨0x16, sc, 0, 0, 0, 0⟩
  | .sfDivu sc => ⟨0x17, sc, 0, 0, 0, 0⟩
  | .sfMulHi sc => ⟨0x18, sc, 0, 0, 0, 0⟩
  | .sfMulLo sc => ⟨0x19, sc, 0, 0, 0, 0⟩
  | .umul128 => ⟨0x20, 0, 0, 0, 0, 0⟩
  | .udiv64 => ⟨0x21, 0, 0, 0, 0, 0⟩
  | .urem64 => ⟨0x22, 0, 0, 0, 0, 0⟩
  | .add ov => ⟨0x30, 0, 0, ov.code, 0, 0⟩
  | .sub ov => ⟨0x31, 0, 0, ov.code, 0, 0⟩
  | .mul sc rm ov => ⟨0x32, sc, rm.code, ov.code, 0, 0⟩
  | .div sc rm ov => ⟨0x33, sc, rm.code, ov.code, 0, 0⟩
  | .avg rm => ⟨0x34, 0, rm.code, 0, 0, 0⟩
  | .pow sc rm ov => ⟨0x35, sc, rm.code, ov.code, 0, 0⟩
  | .sqrt sc rm => ⟨0x36, sc, rm.code, 0, 0, 0⟩
  | .shl ov => ⟨0x37, 0, 0, ov.code, 0, 0⟩
  | .shr rm => ⟨0x38, 0, rm.code, 0, 0, 0⟩
  | .cmp => ⟨0x39, 0, 0, 0, 0, 0⟩
  | .isZero => ⟨0x3A, 0, 0, 0, 0, 0⟩
  | .signum => ⟨0x3B, 0, 0, 0, 0, 0⟩
  | .fromInt sc => ⟨0x40, sc, 0, 0, 0, 0⟩
  | .toInt sc rm => ⟨0x41, sc, rm.code, 0, 0, 0⟩
  | .fromDec sc rm aux => ⟨0x42, sc, rm.code, 0, aux, 0⟩
  | .toDec sc rm aux => ⟨0x43, sc, rm.code, 0, aux, 0⟩
  | .fromDbl sc rm => ⟨0x50, sc, rm.code, 0, 0, 0⟩
  | .toDbl sc rm => ⟨0x51, sc, rm.code, 0, 0, 0⟩
  | .fromFlt sc rm => ⟨0x52, sc, rm.code, 0, 0, 0⟩
  | .toFlt sc rm => ⟨0x53, sc, rm.code, 0, 0, 0⟩

/-- The word of a well-formed command (R71, R76). Of an ill-formed one it is no word of that command, and nothing
that reaches the port uses it (log 15). -/
def encode (i : Instr) : Word32 := pack i.fields

/-- The command word in the low `nbits` bits of `w`, every bit above them 0. A command is one 32-bit word (R71),
so no byte order arises (R56). -/
def tableWord (nbits w : Nat) : Word32 := BitVec.ofNat 32 (w % 2 ^ nbits)

/-- The command the decoder reads from the bits `w` of an opcode-table row. -/
def decodeTableWord (nbits w : Nat) : Option Instr := (decode (tableWord nbits w)).toOption

end Sys2Proof
end

