-- ==== Sys2Proof/Machine/State.lean ====
section
/-! DEFINITION. The state of the block: its seven registers (spec/10_state.md R21, R34), and the model's own two
fields for the host's side of a run (R465): what the host has still to present, and what its reads returned. -/

namespace Sys2Proof.Machine

/-- What the host, or the platform, does at the port (R20, R52, R450, R451). An index is three bits (R51); the
data path is 64 bits wide (R53; log 13). -/
inductive PortEvent where
  /-- `HostWrite(i, v)` (R52) -/
  | write (index : BitVec 3) (data : Word64)
  /-- `HostRead(i)` (R52) -/
  | read (index : BitVec 3)
  /-- reset asserted between transactions (R450) -/
  | reset
  /-- the host wrote `data` to `CMD` and reset was asserted before that command ended (R451) -/
  | resetDuring (data : Word64)
  deriving DecidableEq, Repr

/-- The state of the block and of the host's run. -/
structure State where
  /-- `OPA`, index 0: operand A (R22) -/
  opa : Word64
  /-- `OPB`, index 1: operand B (R23) -/
  opb : Word64
  /-- `RES`, index 2: the result, or the low half of a wide result (R24) -/
  res : Word64
  /-- `RESH`, index 3: the high half of a wide result (R25) -/
  resh : Word64
  /-- `CMD`, index 4: the last command word written (R26) -/
  cmd : Word32
  /-- `STATUS`, index 5: `ERR` in bits 2:0, the rest reserved (R27) -/
  status : Word32
  /-- `FLAGS`, index 6: `F_OVF`, `F_RND`, `F_INV`, `F_ILL` in bits 3:0, the rest reserved (R28) -/
  flags : Word32
  /-- the model's own: the port events still to come, the next one first (log 1) -/
  port : List PortEvent
  /-- the model's own: the values the host's reads returned, oldest first (log 2) -/
  returned : List Word64
  deriving DecidableEq, Repr

/-- No step of the block ends in a fault: R465 gives it "no fault state distinct from ordinary state". No
constructor, so nobody raises one; a command's failure is recorded in `STATUS` and `FLAGS` (R404). -/
inductive Fault where
  deriving DecidableEq, Repr

/-- Why a step has no meaning. -/
inductive Refusal where
  /-- An arm of `exec` whose command has no meaning yet. No arm raises it: all 33 commands are modelled. It would
  be safe: the model stops where the block goes on. -/
  | notModelled (mnemonic : String)
  deriving DecidableEq, Repr

/-- The state right after reset: every register 0 (R37, R450), nothing presented, nothing returned (log 1, 2). -/
def State.reset : State where
  opa := 0
  opb := 0
  res := 0
  resh := 0
  cmd := 0
  status := 0
  flags := 0
  port := []
  returned := []

end Sys2Proof.Machine
end

