-- ==== Sys2Proof/Machine/Operands.lean ====
section
/-! DEFINITION. How a command reads its operand registers (spec/00_scope.md R13, spec/30_encoding.md R83):
signed, unsigned, as one wide integer, as a half-word, or as a floating-point pattern. -/

namespace Sys2Proof.Machine

/-- `A` = `s64(OPA)` (R13). -/
def State.a (s : State) : Int := s64 s.opa

/-- `B` = `s64(OPB)` (R13). -/
def State.b (s : State) : Int := s64 s.opb

/-- `UA` = `u64(OPA)` (R13). -/
def State.ua (s : State) : Nat := u64 s.opa

/-- `UB` = `u64(OPB)`: a divisor, a shift count or an exponent (R13, R216, R250). -/
def State.ub (s : State) : Nat := u64 s.opb

/-- `W` = `s128(OPB, OPA)`, `OPB` the high half (R13, R280). -/
def State.wide (s : State) : Int := s128 s.opb s.opa

/-- `OPA[31:0]`, a half-word or a binary32 pattern; `OPA[63:32]` is ignored (R112, R113, R320). -/
def State.aLow (s : State) : Nat := slice s.ua 31 0

end Sys2Proof.Machine
end

