-- ==== Sys2Proof/Machine/Flags.lean ====
section
/-! DEFINITION. The failure kinds with their codes (spec/60_exceptions.md R400) and the two registers that
record them: the `ERR` field of `STATUS` (spec/10_state.md R27) and the sticky bits of `FLAGS` (R28). -/

namespace Sys2Proof.Machine

/-- The four failure kinds (R400). -/
inductive FailKind where
  | rangeOverflow | roundingRequired | invalidOperand | illegalCommand
  deriving DecidableEq, Repr

/-- The code of a kind in `STATUS.ERR`; 0 is `NONE` (R400). -/
def FailKind.code : FailKind → Nat
  | .rangeOverflow => 1
  | .roundingRequired => 2
  | .invalidOperand => 3
  | .illegalCommand => 4

/-- `STATUS.ERR <- c`: only bits 2:0 are written (R27). -/
def withErr (status : Word32) (c : Nat) : Word32 := (status &&& ~~~0x7#32) ||| (BitVec.ofNat 32 c &&& 0x7#32)

/-- `STATUS.ERR` (R27). -/
def State.err (s : State) : Nat := slice s.status.toNat 2 0

/-- `FLAGS[c − 1] <- 1`: the other bits keep their values (R28, R404). -/
def withFlag (flags : Word32) (c : Nat) : Word32 := flags ||| (1#32 <<< (c - 1))

/-- `FLAGS[3:0] <- FLAGS[3:0] AND NOT v[3:0]`: bits 31:4 of `v` are ignored (R28, R52). -/
def clearFlags (flags v : Word32) : Word32 := flags &&& ~~~(v &&& 0xF#32)

end Sys2Proof.Machine
end

