-- ==== Sys2Proof/Machine/Ops.lean ====
section
/-! DEFINITION. The operations every command shares: recording a success, recording a failure (the block's one
form of taking an exception, spec/60_exceptions.md R404; there is none to return from, R412), and ending a command
with either. Also reset (spec/70_reset_and_hazards.md R450). -/

namespace Sys2Proof.Machine

/-- A command succeeds with a 64-bit result: `RES` and `STATUS.ERR <- 0`, nothing else (R24, R70, R404). -/
def State.succeed (s : State) (r : Word64) : State :=
  { s with res := r, status := withErr s.status 0 }

/-- A command succeeds with a wide result `hi ∥ lo`: `RESH`, `RES` and `STATUS.ERR <- 0` (R25, R70). -/
def State.succeedWide (s : State) (hi lo : Word64) : State :=
  { s with resh := hi, res := lo, status := withErr s.status 0 }

/-- A command fails with kind `k`: `STATUS.ERR` and one bit of `FLAGS`; no result register changes (R404). -/
def State.fail (s : State) (k : FailKind) : State :=
  { s with status := withErr s.status k.code, flags := withFlag s.flags k.code }

/-- The end of a command with a 64-bit result: success or failure, always an ordinary state (R70, R465). -/
def State.finish (s : State) : Except FailKind Word64 → Host.Outcome State Fault Refusal
  | .ok r => .next (s.succeed r)
  | .error k => .next (s.fail k)

/-- The end of a command with a wide result, the high half first (R70). -/
def State.finishWide (s : State) : Except FailKind (Word64 × Word64) → Host.Outcome State Fault Refusal
  | .ok (hi, lo) => .next (s.succeedWide hi lo)
  | .error k => .next (s.fail k)

/-- `Reset()`: all seven registers 0 (R450). What the host still has to do, and what it has read, is not the
block's and stays (log 12). -/
def State.resetRegisters (s : State) : State :=
  { s with opa := 0, opb := 0, res := 0, resh := 0, cmd := 0, status := 0, flags := 0 }

end Sys2Proof.Machine
end

