-- ==== Sys2Proof/Machine/Rounding.lean ====
section
/-! DEFINITION. The rounding policy and the overflow policy, once for every command that narrows
(spec/41_rounding_policy.md). -/

namespace Sys2Proof.Machine

/-- The class of a discarded remainder (R140). -/
inductive RemClass where
  | zero | lt | eq | gt
  deriving DecidableEq, Repr

/-- `Classify(r, d)`, for `0 ≤ r < d`: twice the remainder against the divisor (R140). -/
def classify (r d : Nat) : RemClass :=
  if r = 0 then .zero
  else if 2 * r < d then .lt
  else if 2 * r = d then .eq
  else .gt

/-- `RoundAdj(rm, neg, odd, cls)`: what to add to the magnitude of the truncated quotient (R142, R143). -/
def roundAdj (rm : RoundMode) (neg odd : Bool) (cls : RemClass) : Except FailKind Nat :=
  if cls = .zero then .ok 0
  else
    match rm with
    | .down => .ok 0
    | .up => .ok 1
    | .ceiling => .ok (if neg then 0 else 1)
    | .floor => .ok (if neg then 1 else 0)
    | .halfUp => .ok (if cls = .lt then 0 else 1)
    | .halfDown => .ok (if cls = .gt then 1 else 0)
    | .halfEven => .ok (if cls = .gt then 1 else if cls = .eq ∧ odd then 1 else 0)
    | .unnecessary => .error .roundingRequired

/-- `UDivRem128(n, d)`: quotient and remainder; only the result is fixed, not the circuit (R177). -/
def uDivRem (n d : Nat) : Nat × Nat := (n / d, n % d)

/-- The sign of an exact result `N / D`, false when `N = 0` (R146). -/
def negQuotient (n d : Int) : Bool := decide (n ≠ 0) && (decide (n < 0) != decide (d < 0))

/-- `RoundDiv(N, D, rm)`, for `D ≠ 0`: the integer nearest `N / D` in the sense of `rm` (R146). -/
def roundDiv (n d : Int) (rm : RoundMode) : Except FailKind Int := do
  let neg := negQuotient n d
  let (q, r) := uDivRem n.natAbs d.natAbs
  let adj ← roundAdj rm neg (q % 2 == 1) (classify r d.natAbs)
  let m : Int := ((q + adj : Nat) : Int)
  return if neg then -m else m

/-- `Narrow64(v, ov)`, the overflow arbiter (R150). -/
def narrow64 (v : Int) (ov : OvMode) : Except FailKind Int :=
  if fits64 v then .ok v
  else
    match ov with
    | .checked => .error .rangeOverflow
    | .unchecked => .ok (wrap64 v)

/-- `NarrowAlways(v)`, of the conversions into the 64-bit target (R152). -/
def narrowAlways (v : Int) : Except FailKind Int :=
  if fits64 v then .ok v else .error .rangeOverflow

end Sys2Proof.Machine
end

