-- ==== Sys2Proof/Machine/Wide.lean ====
section
/-! DEFINITION. The ROM of ScaleMetrics (spec/40_scale_metrics.md R101) and the multipliers built from 32-bit
halves: `mulhi`, `mullo`, `MulSF` (R112 to R114), `UMul128`, `SMul128`, `SMulSF` (spec/42_wide_primitives.md R171,
R175, R176). Each listing is followed step by step (log 9). -/

namespace Sys2Proof.Machine

/-- One row of the ROM (R31, R101). -/
structure MetricsRow where
  sf : Nat
  sfHigh : Nat
  sfLow : Nat
  nlz : Nat
  minInt : Int
  maxInt : Int
  deriving DecidableEq, Repr

/-- The row of scale `sc`, by the definitions that R101 evaluates. -/
def metrics (sc : Nat) : MetricsRow where
  sf := 10 ^ sc
  sfHigh := 10 ^ sc / 2 ^ 32
  sfLow := 10 ^ sc % 2 ^ 32
  nlz := nlz64 (10 ^ sc)
  minInt := tdiv int64Min (10 ^ sc)
  maxInt := tdiv int64Max (10 ^ sc)

/-- The ROM: 19 rows, one per scale 0..18 (R31). -/
def metricsRom : List MetricsRow := (List.range 19).map metrics

/-- `mulhi`: all of the product of a half-word `v` and `SF(s)` above its low 32 bits (R112). -/
def mulHi (v sc : Nat) : Nat :=
  let lo64 := v * (metrics sc).sfLow
  let hi64 := v * (metrics sc).sfHigh
  hi64 + lo64 / 2 ^ 32

/-- `mullo`: the low 32 bits of the same product (R113). -/
def mulLo (v sc : Nat) : Nat := v * (metrics sc).sfLow % 2 ^ 32

/-- `MulSF(x, s)`: the product of an unsigned 64-bit `x` and `SF(s)` from the two halves of `x` (R114). -/
def mulSf (x sc : Nat) : Nat :=
  let xh := slice x 63 32
  let xl := slice x 31 0
  let mid := mulLo xh sc + mulHi xl sc
  mulHi xh sc * 2 ^ 64 + mid * 2 ^ 32 + mulLo xl sc

/-- `UMul128(x, y)`: the product of two unsigned 64-bit numbers as `(hi, lo)`, from four partial products (R171). -/
def uMul128 (x y : Nat) : Nat × Nat :=
  let xl := slice x 31 0
  let xh := slice x 63 32
  let yl := slice y 31 0
  let yh := slice y 63 32
  let p0 := xl * yl
  let p1 := xl * yh
  let p2 := xh * yl
  let p3 := xh * yh
  let m1 := p1 + p0 / 2 ^ 32
  let m2 := p2 + slice m1 31 0
  let lo := slice m2 31 0 * 2 ^ 32 + slice p0 31 0
  let hi := p3 + m1 / 2 ^ 32 + m2 / 2 ^ 32
  (hi, lo)

/-- `SMul128(a, b)`: the product of two signed 64-bit integers, magnitude and sign apart (R175). -/
def sMul128 (a b : Int) : Int :=
  let (hi, lo) := uMul128 a.natAbs b.natAbs
  let m : Int := ((hi * 2 ^ 64 + lo : Nat) : Int)
  if sgn a * sgn b < 0 then -m else m

/-- `SMulSF(a, s)`: the product of a signed 64-bit integer and a scale factor (R176). -/
def sMulSf (a : Int) (sc : Nat) : Int :=
  let m : Int := ((mulSf a.natAbs sc : Nat) : Int)
  if a < 0 then -m else m

end Sys2Proof.Machine
end

