-- ==== Sys2Proof/Machine/Convert.lean ====
section
/-! DEFINITION. Conversions between the unscaled value, integers and decimals of another scale
(spec/45_convert_integer_decimal.md). The wide carrier is `OPB ∥ OPA` in, `RESH ∥ RES` out (R280). -/

namespace Sys2Proof.Machine

/-- `FROMINT s`: always range-checked (R284). -/
def execFromInt (sc : Nat) (s : State) : Host.Outcome State Fault Refusal :=
  s.finish (do return bits64 (← narrowAlways (s.wide * sf sc)))

/-- `TOINT.rm s`: a 64-bit integer; `RESH` is left unchanged (R288). -/
def execToInt (sc : Nat) (rm : RoundMode) (s : State) : Host.Outcome State Fault Refusal :=
  s.finish (do return bits64 (← roundDiv s.a (sf sc) rm))

/-- A decimal `w` of scale `aux` at scale `sc`: exact when widening, rounded when narrowing (R292). -/
def rescaleIn (w : Int) (sc aux : Nat) (rm : RoundMode) : Except FailKind Int :=
  if aux ≤ sc then .ok (w * sf (sc - aux)) else roundDiv w (sf (aux - sc)) rm

/-- `FROMDEC.rm s, t` (R292). -/
def execFromDec (sc : Nat) (rm : RoundMode) (aux : Nat) (s : State) : Host.Outcome State Fault Refusal :=
  s.finish (do
    let v ← rescaleIn s.wide sc aux rm
    return bits64 (← narrowAlways v))

/-- An unscaled value `a` of scale `sc` at scale `aux` (R296). -/
def rescaleOut (a : Int) (sc aux : Nat) (rm : RoundMode) : Except FailKind Int :=
  if sc ≤ aux then .ok (sMulSf a (aux - sc)) else roundDiv a (sf (sc - aux)) rm

/-- The halves of `bits128(v)`, the high one first (R296). -/
def halves128 (v : Int) : Word64 × Word64 :=
  ((bits128 v).extractLsb' 64 64, (bits128 v).extractLsb' 0 64)

/-- `TODEC.rm s, t` (R296). -/
def execToDec (sc : Nat) (rm : RoundMode) (aux : Nat) (s : State) : Host.Outcome State Fault Refusal :=
  s.finishWide (do return halves128 (← rescaleOut s.a sc aux rm))

end Sys2Proof.Machine
end

