-- ==== Sys2Proof/Machine/Float.lean ====
section
/-! DEFINITION. Conversions between the unscaled value and floating-point patterns: integer arithmetic on the
fields of a pattern, rounded by the one policy against the exact value (spec/46_convert_float.md). -/

namespace Sys2Proof.Machine

/-- A floating-point format: the widths of the biased exponent and of the fraction (R321; log 11). -/
structure FloatFormat where
  ew : Nat
  fw : Nat
  deriving DecidableEq, Repr

/-- binary64 (R321). -/
def double : FloatFormat := ⟨11, 52⟩

/-- binary32 (R321). -/
def single : FloatFormat := ⟨8, 23⟩

/-- `bias` = `2^(EW−1) − 1` (R321). -/
def FloatFormat.bias (f : FloatFormat) : Nat := 2 ^ (f.ew - 1) - 1

/-- `p` = `FW + 1` (R321). -/
def FloatFormat.prec (f : FloatFormat) : Nat := f.fw + 1

/-- A finite pattern's exact value `(−1)^S × m × 2^e` (R322). -/
structure Dyadic where
  neg : Bool
  m : Nat
  e : Int
  deriving DecidableEq, Repr

/-- `FDecode(pattern, format)`; none is NONFINITE (R322). -/
def fDecode (pattern : Nat) (f : FloatFormat) : Option Dyadic :=
  let sign := slice pattern (f.ew + f.fw) (f.ew + f.fw)
  let expo := slice pattern (f.ew + f.fw - 1) f.fw
  let frac := slice pattern (f.fw - 1) 0
  if expo = 2 ^ f.ew - 1 then none
  else if expo = 0 then some ⟨sign == 1, frac, 1 - f.bias - f.fw⟩
  else some ⟨sign == 1, frac + 2 ^ f.fw, (expo : Int) - f.bias - f.fw⟩

/-- The exact fraction `N / D` of a finite value times `SF(s)` (R324). -/
def Dyadic.scaled (x : Dyadic) (sc : Nat) : Int × Int :=
  let n : Nat := if 0 ≤ x.e then x.m * 2 ^ x.e.toNat * sf sc else x.m * sf sc
  let d : Nat := if 0 ≤ x.e then 1 else 2 ^ (-x.e).toNat
  (if x.neg then -(n : Int) else n, d)

/-- `FloatToUnscaled(pattern, format, s, rm)` (R324). -/
def floatToUnscaled (pattern : Nat) (f : FloatFormat) (sc : Nat) (rm : RoundMode) : Except FailKind Int :=
  match fDecode pattern f with
  | none => .error .invalidOperand
  | some x => do
    let (n, d) := x.scaled sc
    let v ← roundDiv n d rm
    narrowAlways v

/-- `FROMDBL.rm s` (R326). -/
def execFromDbl (sc : Nat) (rm : RoundMode) (s : State) : Host.Outcome State Fault Refusal :=
  s.finish (do return bits64 (← floatToUnscaled s.ua double sc rm))

/-- `FROMFLT.rm s`: the pattern is `OPA[31:0]` (R328). -/
def execFromFlt (sc : Nat) (rm : RoundMode) (s : State) : Host.Outcome State Fault Refusal :=
  s.finish (do return bits64 (← floatToUnscaled s.aLow single sc rm))

/-- `2^e ≤ n / f`, in integers (R330). -/
def ratioAtLeast (n f : Nat) (e : Int) : Bool :=
  if 0 ≤ e then decide (f * 2 ^ e.toNat ≤ n) else decide (f ≤ n * 2 ^ (-e).toNat)

/-- The `e` with `2^e ≤ n / f < 2^(e+1)`, for `n, f ≥ 1`: it is `bitlen(n) − bitlen(f)` or one less (R330;
log 10). -/
def ratioExponent (n f : Nat) : Int :=
  let e0 : Int := (bitlen n : Int) - bitlen f
  if ratioAtLeast n f e0 then e0 else e0 - 1

/-- The pattern of sign `neg`, exponent `e` and significand `sig`, a carry out of the significand included
(R330, last two lines). -/
def floatPattern (neg : Bool) (e : Int) (sig : Nat) (f : FloatFormat) : Nat :=
  let carry : Bool := sig == 2 ^ f.prec
  let sig' := if carry then 2 ^ (f.prec - 1) else sig
  let e' := if carry then e + 1 else e
  ((if neg then 1 else 0) <<< (f.ew + f.fw)) ||| ((e' + f.bias).toNat <<< f.fw) ||| (sig' - 2 ^ (f.prec - 1))

/-- `UnscaledToFloat(x, s, rm, format)`: one rounding, at the last place of the significand (R330). -/
def unscaledToFloat (x : Int) (sc : Nat) (rm : RoundMode) (f : FloatFormat) : Except FailKind Nat :=
  if x = 0 then .ok 0
  else do
    let neg := decide (x < 0)
    let n := x.natAbs
    let e := ratioExponent n (sf sc)
    let k : Int := f.prec - 1 - e
    let num := if 0 ≤ k then n * 2 ^ k.toNat else n
    let den := if 0 ≤ k then sf sc else sf sc * 2 ^ (-k).toNat
    let (q, r) := uDivRem num den
    let adj ← roundAdj rm neg (q % 2 == 1) (classify r den)
    return floatPattern neg e (q + adj) f

/-- `TODBL.rm s` (R334). -/
def execToDbl (sc : Nat) (rm : RoundMode) (s : State) : Host.Outcome State Fault Refusal :=
  s.finish (do return BitVec.ofNat 64 (← unscaledToFloat s.a sc rm double))

/-- `TOFLT.rm s`: `RES[63:32]` is 0; a single rounding straight to 24 bits (R336). -/
def execToFlt (sc : Nat) (rm : RoundMode) (s : State) : Host.Outcome State Fault Refusal :=
  s.finish (do return (BitVec.ofNat 32 (← unscaledToFloat s.a sc rm single)).setWidth 64)

end Sys2Proof.Machine
end

