-- ==== Sys2Proof/Machine/ScaleFree.lean ====
section
/-! DEFINITION. The commands whose result does not depend on the scale (spec/43_decimal_arithmetic.md). -/

namespace Sys2Proof.Machine

/-- `ADD.ov` (R200). -/
def execAdd (ov : OvMode) (s : State) : Host.Outcome State Fault Refusal :=
  s.finish (do return bits64 (← narrow64 (s.a + s.b) ov))

/-- `SUB.ov` (R201). -/
def execSub (ov : OvMode) (s : State) : Host.Outcome State Fault Refusal :=
  s.finish (do return bits64 (← narrow64 (s.a - s.b) ov))

/-- `AVG.rm`: half the exact sum, rounded; it never overflows (R210). -/
def execAvg (rm : RoundMode) (s : State) : Host.Outcome State Fault Refusal :=
  s.finish (do return bits64 (← roundDiv (s.a + s.b) 2 rm))

/-- The count of a shift: `u64(OPB)`, at most 63 (R216, R218). -/
def State.shiftCount (s : State) : Except FailKind Nat :=
  if s.ub > 63 then .error .invalidOperand else .ok s.ub

/-- `SHL.ov`: multiplication by a power of two under the overflow policy (R216). -/
def execShl (ov : OvMode) (s : State) : Host.Outcome State Fault Refusal :=
  s.finish (do
    let n ← s.shiftCount
    return bits64 (← narrow64 (s.a * 2 ^ n) ov))

/-- `SHR.rm`: division by a power of two under the rounding policy (R218). -/
def execShr (rm : RoundMode) (s : State) : Host.Outcome State Fault Refusal :=
  s.finish (do
    let n ← s.shiftCount
    return bits64 (← roundDiv s.a (2 ^ n) rm))

/-- `CMP`: −1, 0 or 1 as `A` is below, equal to or above `B`, on the exact values (R226). -/
def execCmp (s : State) : Host.Outcome State Fault Refusal :=
  s.finish (.ok (bits64 (sgn (s.a - s.b))))

/-- `ISZERO`: 1 when `OPA` is 0, else 0 (R227). -/
def execIsZero (s : State) : Host.Outcome State Fault Refusal :=
  s.finish (.ok (if s.opa = 0 then 1 else 0))

/-- `SIGNUM`: −1, 0 or 1, the sign of `A` (R228). -/
def execSignum (s : State) : Host.Outcome State Fault Refusal :=
  s.finish (.ok (bits64 (sgn s.a)))

end Sys2Proof.Machine
end

