-- ==== Sys2Proof/Machine/ScaleMetrics.lean ====
section
/-! DEFINITION. The ten commands of ScaleMetrics (spec/40_scale_metrics.md R104 to R113). None can fail; all write
`RES`, and ignore `OPB` (R116). -/

namespace Sys2Proof.Machine

/-- `SM.SF s` (R104). -/
def execSmSf (sc : Nat) (s : State) : Host.Outcome State Fault Refusal :=
  s.finish (.ok (bits64 (metrics sc).sf))

/-- `SM.MININT s` (R105). -/
def execSmMinInt (sc : Nat) (s : State) : Host.Outcome State Fault Refusal :=
  s.finish (.ok (bits64 (metrics sc).minInt))

/-- `SM.MAXINT s` (R106). -/
def execSmMaxInt (sc : Nat) (s : State) : Host.Outcome State Fault Refusal :=
  s.finish (.ok (bits64 (metrics sc).maxInt))

/-- `SM.NLZ s` (R107). -/
def execSmNlz (sc : Nat) (s : State) : Host.Outcome State Fault Refusal :=
  s.finish (.ok (bits64 (metrics sc).nlz))

/-- `SF.MUL s`: the low 64 bits of `A × SF(s)` (R108). -/
def execSfMul (sc : Nat) (s : State) : Host.Outcome State Fault Refusal :=
  s.finish (.ok (bits64 (sMulSf s.a sc)))

/-- `SF.DIV s`: signed division, truncating toward zero (R109). -/
def execSfDiv (sc : Nat) (s : State) : Host.Outcome State Fault Refusal :=
  s.finish (.ok (bits64 (tdiv s.a (sf sc))))

/-- `SF.MOD s`: the remainder of that division, with the sign of `A` (R110). -/
def execSfMod (sc : Nat) (s : State) : Host.Outcome State Fault Refusal :=
  s.finish (.ok (bits64 (trem s.a (sf sc))))

/-- `SF.DIVU s`: unsigned division (R111). -/
def execSfDivu (sc : Nat) (s : State) : Host.Outcome State Fault Refusal :=
  s.finish (.ok (bits64 (s.ua / sf sc : Nat)))

/-- `SF.MULHI s`: the product of `OPA[31:0]` and `SF(s)`, shifted right by 32 (R112). -/
def execSfMulHi (sc : Nat) (s : State) : Host.Outcome State Fault Refusal :=
  s.finish (.ok (bits64 (mulHi s.aLow sc)))

/-- `SF.MULLO s`: the low 32 bits of that product (R113). -/
def execSfMulLo (sc : Nat) (s : State) : Host.Outcome State Fault Refusal :=
  s.finish (.ok (bits64 (mulLo s.aLow sc)))

end Sys2Proof.Machine
end

