-- ==== Sys2Proof/Config.lean ====
section
/-! DEFINITION. What one implementation of the block fixes and the spec leaves open: `POW_EXP_MAX`
(spec/00_scope.md R9). `LATENCY` is unobservable (R463) and has no place in the model (log 5). -/

namespace Sys2Proof.Config

/-- `POW_EXP_MAX` less one. It has no body: nothing can be proved of its value but its range (log 4). -/
opaque powExpExtra : Fin 18446744073709551615

/-- `POW_EXP_MAX`, the largest exponent `POW` accepts: any number from 1 to 2^64 − 1 (R9, R251; log 4). -/
def powExpMax : Nat := powExpExtra.val + 1

end Sys2Proof.Config
end

