-- ==== Sys2Proof/Machine/Scaled.lean ====
section
/-! DEFINITION. Multiply, divide, power and square root at a scale (spec/44_multiply_divide.md). -/

namespace Sys2Proof.Machine

/-- `MulStep(x, y)`: one scaled multiplication, rounded and then narrowed (R240, R250). -/
def mulStep (x y : Int) (sc : Nat) (rm : RoundMode) (ov : OvMode) : Except FailKind Int := do
  let v ← roundDiv (sMul128 x y) (sf sc) rm
  narrow64 v ov

/-- `MUL.rm.ov s` (R240). -/
def execMul (sc : Nat) (rm : RoundMode) (ov : OvMode) (s : State) : Host.Outcome State Fault Refusal :=
  s.finish (do return bits64 (← mulStep s.a s.b sc rm ov))

/-- `DIV.rm.ov s`: a zero divisor fails before anything else (R244, R245). -/
def execDiv (sc : Nat) (rm : RoundMode) (ov : OvMode) (s : State) : Host.Outcome State Fault Refusal :=
  s.finish (
    if s.b = 0 then .error .invalidOperand
    else do
      let v ← roundDiv (sMulSf s.a sc) s.b rm
      return bits64 (← narrow64 v ov))

/-- `repeat k times: r <- MulStep(r, A)`; the first failing step ends it (R250, R407). -/
def powSteps (a : Int) (sc : Nat) (rm : RoundMode) (ov : OvMode) : Nat → Int → Except FailKind Int
  | 0, r => .ok r
  | k + 1, r => do
    let r' ← mulStep r a sc rm ov
    powSteps a sc rm ov k r'

/-- The power of `a` to the exponent `n`: the bound first, then the full loop (R250 to R252). -/
def powValue (a : Int) (n sc : Nat) (rm : RoundMode) (ov : OvMode) : Except FailKind Int :=
  if Config.powExpMax < n then .error .rangeOverflow
  else if n = 0 then .ok (sf sc)
  else powSteps a sc rm ov (n - 1) a

/-- `POW.rm.ov s`: the exponent is `u64(OPB)` (R250). -/
def execPow (sc : Nat) (rm : RoundMode) (ov : OvMode) (s : State) : Host.Outcome State Fault Refusal :=
  s.finish (do return bits64 (← powValue s.a s.ub sc rm ov))

/-- The class of the remainder of a square root: the root is never a midpoint (R256). -/
def rootClass (rem q : Nat) : RemClass := if rem = 0 then .zero else if rem ≤ q then .lt else .gt

/-- The integer root of `n`, rounded by the shared policy (R256). -/
def roundedRoot (n : Nat) (rm : RoundMode) : Except FailKind Nat := do
  let q := isqrt n
  let adj ← roundAdj rm false (q % 2 == 1) (rootClass (n - q * q) q)
  return q + adj

/-- `SQRT.rm s`: a negative operand is `InvalidOperand` (R256). -/
def execSqrt (sc : Nat) (rm : RoundMode) (s : State) : Host.Outcome State Fault Refusal :=
  s.finish (
    if s.a < 0 then .error .invalidOperand
    else do return bits64 (← roundedRoot (sMulSf s.a sc).toNat rm))

end Sys2Proof.Machine
end

