-- ==== Sys2Proof/Machine/WideCommands.lean ====
section
/-! DEFINITION. The wide multiply and the unsigned divide commands (spec/42_wide_primitives.md R172 to R174). -/

namespace Sys2Proof.Machine

/-- `UMUL128`: the exact unsigned product in `RESH ∥ RES`; it cannot fail (R172). -/
def execUmul128 (s : State) : Host.Outcome State Fault Refusal :=
  let (hi, lo) := uMul128 s.ua s.ub
  s.finishWide (.ok (BitVec.ofNat 64 hi, BitVec.ofNat 64 lo))

/-- `UDIV64`: unsigned quotient; a zero divisor is `InvalidOperand` (R173). -/
def execUdiv64 (s : State) : Host.Outcome State Fault Refusal :=
  s.finish (if s.ub = 0 then .error .invalidOperand else .ok (BitVec.ofNat 64 (s.ua / s.ub)))

/-- `UREM64`: unsigned remainder; a zero divisor is `InvalidOperand` (R174). -/
def execUrem64 (s : State) : Host.Outcome State Fault Refusal :=
  s.finish (if s.ub = 0 then .error .invalidOperand else .ok (BitVec.ofNat 64 (s.ua % s.ub)))

end Sys2Proof.Machine
end

