-- ==== Sys2Proof/Machine/Dispatch.lean ====
section
/-! DEFINITION. The meaning of every command of the opcode map (spec/30_encoding.md R76). It answers for a scale
above 18 too, which no decoded command has (log 15). -/

namespace Sys2Proof.Machine

def exec (i : Instr) (s : State) : Host.Outcome State Fault Refusal :=
  match i with
  | .smSf sc => Sys2Proof.Machine.execSmSf sc s
  | .smMinInt sc => Sys2Proof.Machine.execSmMinInt sc s
  | .smMaxInt sc => Sys2Proof.Machine.execSmMaxInt sc s
  | .smNlz sc => Sys2Proof.Machine.execSmNlz sc s
  | .sfMul sc => Sys2Proof.Machine.execSfMul sc s
  | .sfDiv sc => Sys2Proof.Machine.execSfDiv sc s
  | .sfMod sc => Sys2Proof.Machine.execSfMod sc s
  | .sfDivu sc => Sys2Proof.Machine.execSfDivu sc s
  | .sfMulHi sc => Sys2Proof.Machine.execSfMulHi sc s
  | .sfMulLo sc => Sys2Proof.Machine.execSfMulLo sc s
  | .umul128 => Sys2Proof.Machine.execUmul128 s
  | .udiv64 => Sys2Proof.Machine.execUdiv64 s
  | .urem64 => Sys2Proof.Machine.execUrem64 s
  | .add ov => Sys2Proof.Machine.execAdd ov s
  | .sub ov => Sys2Proof.Machine.execSub ov s
  | .mul sc rm ov => Sys2Proof.Machine.execMul sc rm ov s
  | .div sc rm ov => Sys2Proof.Machine.execDiv sc rm ov s
  | .avg rm => Sys2Proof.Machine.execAvg rm s
  | .pow sc rm ov => Sys2Proof.Machine.execPow sc rm ov s
  | .sqrt sc rm => Sys2Proof.Machine.execSqrt sc rm s
  | .shl ov => Sys2Proof.Machine.execShl ov s
  | .shr rm => Sys2Proof.Machine.execShr rm s
  | .cmp => Sys2Proof.Machine.execCmp s
  | .isZero => Sys2Proof.Machine.execIsZero s
  | .signum => Sys2Proof.Machine.execSignum s
  | .fromInt sc => Sys2Proof.Machine.execFromInt sc s
  | .toInt sc rm => Sys2Proof.Machine.execToInt sc rm s
  | .fromDec sc rm aux => Sys2Proof.Machine.execFromDec sc rm aux s
  | .toDec sc rm aux => Sys2Proof.Machine.execToDec sc rm aux s
  | .fromDbl sc rm => Sys2Proof.Machine.execFromDbl sc rm s
  | .toDbl sc rm => Sys2Proof.Machine.execToDbl sc rm s
  | .fromFlt sc rm => Sys2Proof.Machine.execFromFlt sc rm s
  | .toFlt sc rm => Sys2Proof.Machine.execToFlt sc rm s

end Sys2Proof.Machine
end

