-- ==== Sys2Proof/Machine/Port.lean ====
section
/-! DEFINITION. The port: the host's transactions on whole registers (spec/20_memory.md R51 to R55), the execution
of a command word (spec/30_encoding.md R70), and one event of a run (spec/70_reset_and_hazards.md R465). -/

namespace Sys2Proof.Machine

/-- `Execute(w)`: an illegal word raises `IllegalCommand`, reading no operand (R70, R79, R405). -/
def execute (w : Word32) (s : State) : Host.Outcome State Fault Refusal :=
  match decode w with
  | .ok i => exec i s
  | .error _ => .next (s.fail .illegalCommand)

/-- `HostWrite(i, v)`. A 32-bit register takes the low 32 bits of the data (R53); writes to `RES`, `RESH`, `STATUS`
and index 7 are ignored (R55; log 6). -/
def hostWrite (i : BitVec 3) (v : Word64) (s : State) : Host.Outcome State Fault Refusal :=
  match i.toNat with
  | 0 => .next { s with opa := v }
  | 1 => .next { s with opb := v }
  | 4 => execute (v.setWidth 32) { s with cmd := v.setWidth 32 }
  | 6 => .next { s with flags := clearFlags s.flags (v.setWidth 32) }
  | _ => .next s

/-- `HostRead(i)`: the whole register, a 32-bit one zero-extended; index 7 reads 0 (R52, R53). -/
def hostRead (i : BitVec 3) (s : State) : Word64 :=
  match i.toNat with
  | 0 => s.opa
  | 1 => s.opb
  | 2 => s.res
  | 3 => s.resh
  | 4 => s.cmd.setWidth 64
  | 5 => s.status.setWidth 64
  | 6 => s.flags.setWidth 64
  | _ => 0

/-- One port event, on a state from whose list it has been taken. A command cut short by reset has none of its
effects (R451). -/
def portEvent (e : PortEvent) (s : State) : Host.Outcome State Fault Refusal :=
  match e with
  | .write i v => hostWrite i v s
  | .read i => .next { s with returned := s.returned ++ [hostRead i s] }
  | .reset => .next s.resetRegisters
  | .resetDuring _ => .next s.resetRegisters

/-- The next event of the run, wholly, before the one after it (R52, R59). With none the block does nothing
(R20; log 3). -/
def portStep (s : State) : Host.Outcome State Fault Refusal :=
  match s.port with
  | [] => .next s
  | e :: rest => portEvent e { s with port := rest }

/-- The host's next act is `HostWrite(4, w)` of this command word (R26; log 1). -/
def presentCommand (s : State) (w : Word32) : State :=
  { s with port := .write 4 (w.setWidth 64) :: s.port }

end Sys2Proof.Machine
end

