-- ==== Sys2Proof/Machine/Step.lean ====
section
/-! DEFINITION. One step of a run: the next port event (spec/70_reset_and_hazards.md R465). -/

namespace Sys2Proof.Machine

/-- One step: the block and the host carry out the next port event, wholly (R52, R465). -/
def step (s : State) : Host.Outcome State Fault Refusal := portStep s

/-- The host's next act writes to `CMD` the command word that the low `nbits` bits of `w` are (R26, R70; log 1). -/
def State.withFetchWord (s : State) (nbits w : Nat) : State := presentCommand s (tableWord nbits w)

end Sys2Proof.Machine
end

