-- ==== Sys2Proof/Machine/HostLines.lean ====
section
/-! DEFINITION. The textual conventions of spec/30_encoding.md R81 and R82 as data: the assembler's defaults for an
omitted mode, and the host lines with their pseudo-instructions. They belong to the toolchain, not to the block
(log 14). -/

namespace Sys2Proof.Machine

/-- A command line of R81, with the operation as its number (R76): a mode may be omitted, a live scale may not. -/
structure CommandLine where
  op : Nat
  rm : Option RoundMode
  ov : Option OvMode
  sc : Option Nat
  aux : Option Nat
  deriving DecidableEq, Repr

/-- May the line name what it names, and does it name the live scales (R81)? -/
def CommandLine.allowed (l : CommandLine) (f : Format) : Bool :=
  (f.hasRound || l.rm.isNone) && (f.hasOverflow || l.ov.isNone)
    && f.hasScale == l.sc.isSome && f.hasAux == l.aux.isSome

/-- The fields of a line of format `f`: an omitted live `rm` is HALF_UP, an omitted live `ov` is UNCHECKED
(R81, R148). -/
def CommandLine.fields (l : CommandLine) (f : Format) : Fields where
  op := l.op
  sc := l.sc.getD 0
  rm := if f.hasRound then (l.rm.getD .halfUp).code else 0
  ov := if f.hasOverflow then (l.ov.getD .unchecked).code else 0
  aux := l.aux.getD 0
  rsv := 0

/-- The command a line assembles to (R81). -/
def assemble (l : CommandLine) : Option Instr := do
  let (f, _) ← operation ⟨l.op, 0, 0, 0, 0, 0⟩
  let (_, i) ← operation (l.fields f)
  if l.allowed f && i.wf then some i else none

/-- A host line of R82. -/
inductive HostLine where
  | wr (index : BitVec 3) (value : Word64)
  | rd (index : BitVec 3)
  | command (i : Instr)
  | lda (v : Int)
  | ldb (v : Int)
  | ldw (v : Int)
  | clrf (m : Word32)
  deriving DecidableEq, Repr

/-- The transactions a host line stands for (R82), none where it stands for nothing: an `LDW` of a value beyond the
wide carrier, which cannot be written into the registers (R7, R280, U12), and a command with a scale or auxiliary
scale above 18, for which there is no line (R81) and no word (R72). -/
def HostLine.events : HostLine → Option (List PortEvent)
  | .wr i v => some [.write i v]
  | .rd i => some [.read i]
  | .command i => if i.wf then some [.write 4 ((encode i).setWidth 64)] else none
  | .lda v => some [.write 0 (bits64 v)]
  | .ldb v => some [.write 1 (bits64 v)]
  | .ldw v => if fits128 v then some [.write 0 (bits64 v), .write 1 (bits64 (v / 2 ^ 64))] else none
  | .clrf m => some [.write 6 (m.setWidth 64)]

/-- A test program as the events of a run (R82); none if one of its lines stands for nothing (log 16). -/
def programEvents : List HostLine → Option (List PortEvent)
  | [] => some []
  | l :: p => do return (← l.events) ++ (← programEvents p)

end Sys2Proof.Machine
end

