-- ==== Sys2Proof/Safety.lean ====
section
/-! DEFINITION. The terms claims about the block use, written from the spec and not from the model's own functions:
the legal values of the two recording registers, what a success and a failure leave unchanged, what it is to round
an exact rational by a mode, and the number a floating-point pattern denotes. -/

namespace Sys2Proof.Safety

open Sys2Proof.Machine

/-- `ERR` is one of 0..4 and every reserved bit of `STATUS` and `FLAGS` is 0 (R27, R28, U4, U5). -/
abbrev LegalRecord (s : State) : Prop := s.status.toNat ≤ 4 ∧ s.flags.toNat < 16

/-- Every piece of state but `RES`, `RESH`, `STATUS.ERR` and `FLAGS` is as before. -/
abbrev KeepsRest (s t : State) : Prop :=
  t.opa = s.opa ∧ t.opb = s.opb ∧ t.cmd = s.cmd ∧ t.port = s.port ∧ t.returned = s.returned
    ∧ t.status.toNat / 8 = s.status.toNat / 8

/-- The state after a command that succeeds with `RES` = `r`: `ERR` is 0 and everything else is as before
(R24, R25, R404). -/
abbrev Succeeds (s t : State) (r : Word64) : Prop :=
  t.res = r ∧ t.resh = s.resh ∧ t.status.toNat % 8 = 0 ∧ t.flags = s.flags ∧ KeepsRest s t

/-- The state after a command that succeeds with `RESH` = `hi` and `RES` = `lo` (R25, R404). -/
abbrev SucceedsWide (s t : State) (hi lo : Word64) : Prop :=
  t.res = lo ∧ t.resh = hi ∧ t.status.toNat % 8 = 0 ∧ t.flags = s.flags ∧ KeepsRest s t

/-- The state after a command that fails with the code `c`: `ERR` is `c`, the one bit `c − 1` of `FLAGS` is set,
and everything else is as before (R404). -/
abbrev Fails (s t : State) (c : Nat) : Prop :=
  t.res = s.res ∧ t.resh = s.resh ∧ t.status.toNat % 8 = c
    ∧ (∀ k : Nat, k < 32 → t.flags.getLsbD k = (s.flags.getLsbD k || k == c - 1)) ∧ KeepsRest s t

/-- The codes of R400. -/
abbrev codeRangeOverflow : Nat := 1
/-- The codes of R400. -/
abbrev codeRoundingRequired : Nat := 2
/-- The codes of R400. -/
abbrev codeInvalidOperand : Nat := 3
/-- The codes of R400. -/
abbrev codeIllegalCommand : Nat := 4

/-- `v` is the rational `x` rounded to an integer by mode `rm`, the modes as the document's policy table gives
them (R142): toward or away from zero, toward +∞ or −∞, to the nearest integer with a tie away from zero, toward
zero or to the even neighbour; UNNECESSARY admits only an exact `x`. -/
def RoundsTo (rm : RoundMode) (x : ℚ) (v : Int) : Prop :=
  match rm with
  | .up => |x| ≤ |(v : ℚ)| ∧ |(v : ℚ)| < |x| + 1 ∧ 0 ≤ x * v
  | .down => |(v : ℚ)| ≤ |x| ∧ |x| < |(v : ℚ)| + 1 ∧ 0 ≤ x * v
  | .ceiling => x ≤ v ∧ (v : ℚ) < x + 1
  | .floor => (v : ℚ) ≤ x ∧ x < v + 1
  | .halfUp => |x - v| < 1 / 2 ∨ (|x - v| = 1 / 2 ∧ |x| < |(v : ℚ)|)
  | .halfDown => |x - v| < 1 / 2 ∨ (|x - v| = 1 / 2 ∧ |(v : ℚ)| < |x|)
  | .halfEven => |x - v| < 1 / 2 ∨ (|x - v| = 1 / 2 ∧ v % 2 = 0)
  | .unnecessary => x = v

/-- Does mode `rm` give the rational `x` a rounding? Only UNNECESSARY does not, and only where `x` is no integer
(R142). -/
def Determined (rm : RoundMode) (x : ℚ) : Prop := rm ≠ .unnecessary ∨ ∃ k : Int, x = k

/-- `v` is the square root of the natural number `n` rounded to an integer by mode `rm`; the root is not negative
and never midway between two integers (R256). -/
def RootRoundsTo (rm : RoundMode) (n v : Nat) : Prop :=
  match rm with
  | .up | .ceiling => n ≤ v * v ∧ (v = 0 ∨ (v - 1) * (v - 1) < n)
  | .down | .floor => v * v ≤ n ∧ n < (v + 1) * (v + 1)
  | .halfUp | .halfDown | .halfEven =>
    4 * n < (2 * v + 1) * (2 * v + 1) ∧ (v = 0 ∨ (2 * v - 1) * (2 * v - 1) < 4 * n)
  | .unnecessary => n = v * v

/-- Is the exponent field of a pattern of `ew` exponent and `fw` fraction bits not all ones (R322)? -/
def FinitePattern (ew fw p : Nat) : Prop := p / 2 ^ fw % 2 ^ ew ≠ 2 ^ ew - 1

/-- The number a finite pattern denotes: with sign `S`, exponent field `E` and fraction field `F`,
`(−1)^S × F × 2^(1 − bias − FW)` when `E = 0`, else `(−1)^S × (F + 2^FW) × 2^(E − bias − FW)` (R321, R322). -/
def patternValue (ew fw p : Nat) : ℚ :=
  let sign : ℚ := if p / 2 ^ (ew + fw) % 2 = 1 then -1 else 1
  let expo : Nat := p / 2 ^ fw % 2 ^ ew
  let frac : Nat := p % 2 ^ fw
  let bias : Int := 2 ^ (ew - 1) - 1
  if expo = 0 then sign * frac * 2 ^ (1 - bias - fw)
  else sign * ((frac : ℚ) + 2 ^ fw) * 2 ^ ((expo : Int) - bias - fw)

/-- One row of the opcode map of R76: mask, match, and which of `s` and `t` must be at most 18. -/
structure OpcodeRow where
  mask : Word32
  value : Word32
  scale : Bool
  aux : Bool

/-- The mask and match columns of R76, with the commands' names. -/
def opcodeRow : Instr → OpcodeRow
  | .smSf _ => ⟨0xFFFFE0FF, 0x00000010, true, false⟩
  | .smMinInt _ => ⟨0xFFFFE0FF, 0x00000011, true, false⟩
  | .smMaxInt _ => ⟨0xFFFFE0FF, 0x00000012, true, false⟩
  | .smNlz _ => ⟨0xFFFFE0FF, 0x00000013, true, false⟩
  | .sfMul _ => ⟨0xFFFFE0FF, 0x00000014, true, false⟩
  | .sfDiv _ => ⟨0xFFFFE0FF, 0x00000015, true, false⟩
  | .sfMod _ => ⟨0xFFFFE0FF, 0x00000016, true, false⟩
  | .sfDivu _ => ⟨0xFFFFE0FF, 0x00000017, true, false⟩
  | .sfMulHi _ => ⟨0xFFFFE0FF, 0x00000018, true, false⟩
  | .sfMulLo _ => ⟨0xFFFFE0FF, 0x00000019, true, false⟩
  | .umul128 => ⟨0xFFFFFFFF, 0x00000020, false, false⟩
  | .udiv64 => ⟨0xFFFFFFFF, 0x00000021, false, false⟩
  | .urem64 => ⟨0xFFFFFFFF, 0x00000022, false, false⟩
  | .add _ => ⟨0xFFFEFFFF, 0x00000030, false, false⟩
  | .sub _ => ⟨0xFFFEFFFF, 0x00000031, false, false⟩
  | .mul _ _ _ => ⟨0xFFFE00FF, 0x00000032, true, false⟩
  | .div _ _ _ => ⟨0xFFFE00FF, 0x00000033, true, false⟩
  | .avg _ => ⟨0xFFFF1FFF, 0x00000034, false, false⟩
  | .pow _ _ _ => ⟨0xFFFE00FF, 0x00000035, true, false⟩
  | .sqrt _ _ => ⟨0xFFFF00FF, 0x00000036, true, false⟩
  | .shl _ => ⟨0xFFFEFFFF, 0x00000037, false, false⟩
  | .shr _ => ⟨0xFFFF1FFF, 0x00000038, false, false⟩
  | .cmp => ⟨0xFFFFFFFF, 0x00000039, false, false⟩
  | .isZero => ⟨0xFFFFFFFF, 0x0000003A, false, false⟩
  | .signum => ⟨0xFFFFFFFF, 0x0000003B, false, false⟩
  | .fromInt _ => ⟨0xFFFFE0FF, 0x00000040, true, false⟩
  | .toInt _ _ => ⟨0xFFFF00FF, 0x00000041, true, false⟩
  | .fromDec _ _ _ => ⟨0xFFC100FF, 0x00000042, true, true⟩
  | .toDec _ _ _ => ⟨0xFFC100FF, 0x00000043, true, true⟩
  | .fromDbl _ _ => ⟨0xFFFF00FF, 0x00000050, true, false⟩
  | .toDbl _ _ => ⟨0xFFFF00FF, 0x00000051, true, false⟩
  | .fromFlt _ _ => ⟨0xFFFF00FF, 0x00000052, true, false⟩
  | .toFlt _ _ => ⟨0xFFFF00FF, 0x00000053, true, false⟩

/-- Does word `w` match the row: the masked bits, and the live scales at most 18 (R76)? -/
def OpcodeRow.Accepts (r : OpcodeRow) (w : Word32) : Prop :=
  w &&& r.mask = r.value ∧ (r.scale = true → w.toNat / 2 ^ 8 % 32 ≤ 18) ∧ (r.aux = true → w.toNat / 2 ^ 17 % 32 ≤ 18)

/-- May a command raise the failure of code `c` (the table of R406; `IllegalCommand` is a property of the word)? -/
def mayRaise : Instr → Nat → Bool
  | .smSf _, _ | .smMinInt _, _ | .smMaxInt _, _ | .smNlz _, _ => false
  | .sfMul _, _ | .sfDiv _, _ | .sfMod _, _ | .sfDivu _, _ | .sfMulHi _, _ | .sfMulLo _, _ => false
  | .umul128, _ => false
  | .udiv64, c | .urem64, c => c == 3
  | .add ov, c | .sub ov, c => c == 1 && decide (ov = .checked)
  | .shl ov, c => c == 3 || (c == 1 && decide (ov = .checked))
  | .shr _, c => c == 3 || c == 2
  | .avg _, c => c == 2
  | .cmp, _ | .isZero, _ | .signum, _ => false
  | .mul _ _ ov, c => c == 2 || (c == 1 && decide (ov = .checked))
  | .div _ _ ov, c => c == 3 || c == 2 || (c == 1 && decide (ov = .checked))
  | .pow _ _ _, c => c == 2 || c == 1
  | .sqrt _ _, c => c == 3 || c == 2
  | .fromInt _, c => c == 1
  | .toInt _ _, c => c == 2
  | .fromDec _ _ _, c => c == 2 || c == 1
  | .toDec _ _ _, c => c == 2
  | .fromDbl _ _, c | .fromFlt _ _, c => c == 3 || c == 2 || c == 1
  | .toDbl _ _, c | .toFlt _ _, c => c == 2

/-- The commands that do not read `OPB` (R23, R116, and the Operands line of each command's rule). -/
def ignoresOpb : Instr → Bool
  | .smSf _ | .smMinInt _ | .smMaxInt _ | .smNlz _ => true
  | .sfMul _ | .sfDiv _ | .sfMod _ | .sfDivu _ | .sfMulHi _ | .sfMulLo _ => true
  | .umul128 | .udiv64 | .urem64 | .add _ | .sub _ | .mul _ _ _ | .div _ _ _ | .avg _ | .pow _ _ _ => false
  | .sqrt _ _ => true
  | .shl _ | .shr _ | .cmp => false
  | .isZero | .signum => true
  | .fromInt _ => false
  | .toInt _ _ => true
  | .fromDec _ _ _ => false
  | .toDec _ _ _ | .fromDbl _ _ | .toDbl _ _ | .fromFlt _ _ | .toFlt _ _ => true

/-- The same command under overflow mode `ov`, where the command has a live `ov` (R73, R151). -/
def withOverflow (ov : OvMode) : Instr → Instr
  | .add _ => .add ov
  | .sub _ => .sub ov
  | .shl _ => .shl ov
  | .mul sc rm _ => .mul sc rm ov
  | .div sc rm _ => .div sc rm ov
  | .pow sc rm _ => .pow sc rm ov
  | i => i

/-- Is the event a `HostRead`? -/
def isRead : PortEvent → Bool
  | .read _ => true
  | .write _ _ | .reset | .resetDuring _ => false

end Sys2Proof.Safety
end

