-- ==== Sys2Proof/Certificates/Slice0/Obligations.lean ====
section
/-! DEFINITION. The statements for the provers. `s.opa.toInt` is the operand `A`, `s.opb.toInt` the operand `B`,
`s.opa.toNat` and `s.opb.toNat` the unsigned readings (spec/00_scope.md R13); `t.status.toNat % 8` is `STATUS.ERR`.
`Safety.Succeeds` and `Safety.Fails` say the whole next state, the frame included. -/

open Sys2Proof Sys2Proof.Machine Sys2Proof.Safety

/-! ### Encoding -/

/-- R71, R72, R76: the word of every well-formed command, every live field at every value, decodes to it. -/
def Obligations.EncodeThenDecodeIsIdentity : Prop :=
  ∀ i : Instr, i.wf = true → decode (encode i) = .ok i

/-- R72: a legal word is the encoding of the well-formed command it decodes to; so decoding is injective on the
legal words. -/
def Obligations.LegalWordsAreCanonical : Prop :=
  ∀ (w : Word32) (i : Instr), decode w = .ok i → i.wf = true ∧ encode i = w

/-- R76, R79: a word decodes to a command of a row exactly when it matches that row's mask and match, its live
scales at most 18. -/
def Obligations.LegalWordsMatchTheOpcodeMap : Prop :=
  (∀ (w : Word32) (i : Instr), decode w = .ok i → (opcodeRow i).Accepts w)
    ∧ ∀ (w : Word32) (i : Instr), (opcodeRow i).Accepts w → ∃ j, decode w = .ok j ∧ opcodeRow j = opcodeRow i

/-- R81's examples, R80's two words and one illegal word per test of R72 decode as the spec says. The last
clause, that the block right after reset idles on the illegal word 0 in its `CMD`, rests on the model's choices: the
list of events is empty at reset (log 1) and a step without an event changes nothing (log 3). -/
def Obligations.SampleWordsDecodeAsWritten : Prop :=
  decode 0x00018232 = .ok (.mul 2 .halfUp .checked) ∧ decode 0x00008232 = .ok (.mul 2 .halfUp .unchecked)
    ∧ decode 0x00010030 = .ok (.add .checked) ∧ decode 0x00042643 = .ok (.toDec 6 .down 2)
    ∧ decode 0x00000039 = .ok .cmp ∧ decode 0x00001210 = .ok (.smSf 18) ∧ decode 0x00000020 = .ok .umul128
    ∧ decode 0x0000C050 = .ok (.fromDbl 0 .halfEven)
    ∧ decode 0x00000000 = .error .unknownOperation ∧ decode 0xFFFFFFFF = .error .reservedBits
    ∧ decode 0x00400032 = .error .reservedBits ∧ decode 0x00000130 = .error .deadScale
    ∧ decode 0x00002030 = .error .deadRound ∧ decode 0x00010034 = .error .deadOverflow
    ∧ decode 0x00020030 = .error .deadAux ∧ decode 0x00001332 = .error .scaleRange
    ∧ decode 0x00260242 = .error .auxRange
    ∧ State.reset.cmd = 0 ∧ step State.reset = .next State.reset

/-! ### The port -/

/-- R70: writing to `CMD` a word that decodes to a command stores the word and runs exactly that command. That the
write is an event of `port` is the model's choice (log 1). -/
def Obligations.StepRunsTheDecodedCommand : Prop :=
  ∀ (s : State) (v : Word64) (rest : List PortEvent) (i : Instr),
    s.port = .write 4 v :: rest → decode (v.setWidth 32) = .ok i →
      step s = exec i { s with port := rest, cmd := v.setWidth 32 }

/-- R79, R405: a word that is no command is stored in `CMD`, fails with `IllegalCommand`, and changes nothing
else. That the write is an event of `port` is the model's choice (log 1). -/
def Obligations.IllegalWordsAreOnlyRecorded : Prop :=
  ∀ (s : State) (v : Word64) (rest : List PortEvent) (e : Illegal),
    decode (v.setWidth 32) = .error e →
      ∃ t, step { s with port := .write 4 v :: rest } = .next t
        ∧ Fails { s with port := rest, cmd := v.setWidth 32 } t codeIllegalCommand

/-- R52, R53, R55: what each `HostWrite` and each `HostRead` does, all eight indices. The model's choices in it: each
transaction is one event of `port` (log 1), a read appends its value to `returned` (log 2), a write to a read-only
register or to index 7 is ignored and not refused (log 6), and the data is 64 bits wide, of which a 32-bit register
takes the low half (log 13). -/
def Obligations.HostTransactionsOnRegisters : Prop :=
  ∀ (s : State) (v : Word64) (rest : List PortEvent),
    step { s with port := .write 0 v :: rest } = .next { s with port := rest, opa := v }
    ∧ step { s with port := .write 1 v :: rest } = .next { s with port := rest, opb := v }
    ∧ step { s with port := .write 4 v :: rest }
        = execute (v.setWidth 32) { s with port := rest, cmd := v.setWidth 32 }
    ∧ (∃ f : Word32, step { s with port := .write 6 v :: rest } = .next { s with port := rest, flags := f }
        ∧ ∀ k : Nat, k < 32 → f.getLsbD k = (s.flags.getLsbD k && !(decide (k < 4) && v.getLsbD k)))
    ∧ (∀ i ∈ [(2 : BitVec 3), 3, 5, 7], step { s with port := .write i v :: rest } = .next { s with port := rest })
    ∧ (∀ (i : BitVec 3) (x : Word64),
        (i, x) ∈ [(0, s.opa), (1, s.opb), (2, s.res), (3, s.resh), (4, s.cmd.setWidth 64),
          (5, s.status.setWidth 64), (6, s.flags.setWidth 64), (7, 0)] →
        step { s with port := .read i :: rest } = .next { s with port := rest, returned := s.returned ++ [x] })

/-- R54: any number of reads changes none of the seven registers, and each returns what it would have returned
first. The list of events and the list of returned values are the model's choices (log 1, log 2). -/
def Obligations.ReadsNeverChangeTheBlock : Prop :=
  ∀ (s : State) (is : List (BitVec 3)) (rest : List PortEvent),
    Sys2Proof.core.run is.length { s with port := is.map .read ++ rest }
      = .next { s with port := rest, returned := s.returned ++ is.map (fun i => hostRead i s) }

/-- R37, R450, R451: reset, between transactions or during a command, leaves every register 0. That the host's
events and its returned values survive it is the model's choice (log 12). -/
def Obligations.ResetClearsEveryRegister : Prop :=
  (State.reset.opa = 0 ∧ State.reset.opb = 0 ∧ State.reset.res = 0 ∧ State.reset.resh = 0 ∧ State.reset.cmd = 0
    ∧ State.reset.status = 0 ∧ State.reset.flags = 0)
  ∧ ∀ (s : State) (rest : List PortEvent) (v : Word64),
      step { s with port := .reset :: rest } = .next { State.reset with port := rest, returned := s.returned }
      ∧ step { s with port := .resetDuring v :: rest }
          = .next { State.reset with port := rest, returned := s.returned }

/-- R20, R52, R59: with no event nothing changes; with one, exactly that one is taken. The list of
events and the idle step are the model's choices (log 1, log 3). -/
def Obligations.StepTakesExactlyOneEvent : Prop :=
  (∀ s : State, s.port = [] → step s = .next s)
    ∧ ∀ (s t : State) (e : PortEvent) (rest : List PortEvent),
        s.port = e :: rest → step s = .next t → t.port = rest

/-- R464, R465: the step function is total: no stuck state, no fault, no refusal. -/
def Obligations.EveryStepAnswersANextState : Prop :=
  ∀ s : State, ∃ t, step s = .next t

/-- R465: a run of a finite list of transactions comes to its end in as many steps, each read having returned one
value. The list of events and the list of returned values are the model's choices (log 1, log 2). -/
def Obligations.EveryRunTakesAllItsEvents : Prop :=
  ∀ s : State, ∃ t : State, Sys2Proof.core.run s.port.length s = .next t ∧ t.port = []
    ∧ t.returned.length = s.returned.length + s.port.countP isRead

/-- R27, R28, U4, U5: `ERR` in 0..4 and the reserved bits of `STATUS` and `FLAGS` zero are kept by every step. -/
def Obligations.StepKeepsTheRecordLegal : Prop :=
  ∀ s t : State, LegalRecord s → step s = .next t → LegalRecord t

/-- R37: the state after reset has a legal record. -/
def Obligations.ResetRecordIsLegal : Prop := LegalRecord State.reset

/-! ### All commands at once -/

/-- R404: after any word written to `CMD`, a failure leaves the state as before but for `CMD`, `STATUS.ERR` and one
bit of `FLAGS`, and a success leaves `FLAGS` and the operands as before. -/
def Obligations.FailuresArePrecise : Prop :=
  ∀ (s t : State) (v : Word64) (rest : List PortEvent),
    step { s with port := .write 4 v :: rest } = .next t →
      (t.status.toNat % 8 ≠ 0 →
        ∃ c, 1 ≤ c ∧ c ≤ 4 ∧ Fails { s with port := rest, cmd := v.setWidth 32 } t c)
      ∧ (t.status.toNat % 8 = 0 →
        t.flags = s.flags ∧ KeepsRest { s with port := rest, cmd := v.setWidth 32 } t)

/-- R29, R35, R412, R461: a command's failure and its results depend on the command, `OPA` and `OPB` alone; a
result register it does not write keeps its value. -/
def Obligations.OutcomeDependsOnlyOnWordAndOperands : Prop :=
  ∀ (i : Instr) (s s' t t' : State), s.opa = s'.opa → s.opb = s'.opb → exec i s = .next t → exec i s' = .next t' →
    t.status.toNat % 8 = t'.status.toNat % 8
    ∧ (t.status.toNat % 8 = 0 →
        t.res = t'.res ∧ (t.resh = t'.resh ∨ (t.resh = s.resh ∧ t'.resh = s'.resh)))

/-- R23, R116, U13: a command that does not read `OPB` does the same whatever `OPB` holds; `SF.MULHI`, `SF.MULLO`
and `FROMFLT` do the same whatever `OPA[63:32]` holds; `SM.*` whatever `OPA` holds. -/
def Obligations.UnreadOperandBitsHaveNoEffect : Prop :=
  (∀ (i : Instr) (s : State) (b : Word64), ignoresOpb i = true →
      ∃ t, exec i s = .next t ∧ exec i { s with opb := b } = .next { t with opb := b })
  ∧ (∀ (sc : Nat) (rm : RoundMode) (s : State) (a : Word64) (i : Instr),
      i ∈ [.sfMulHi sc, .sfMulLo sc, .fromFlt sc rm] → a.toNat % 2 ^ 32 = s.opa.toNat % 2 ^ 32 →
      ∃ t, exec i s = .next t ∧ exec i { s with opa := a } = .next { t with opa := a })
  ∧ (∀ (sc : Nat) (s : State) (a : Word64) (i : Instr),
      i ∈ [.smSf sc, .smMinInt sc, .smMaxInt sc, .smNlz sc] →
      ∃ t, exec i s = .next t ∧ exec i { s with opa := a } = .next { t with opa := a })

/-- R25: of all host writes only one that runs `UMUL128` or `TODEC`, and succeeds, changes `RESH`. -/
def Obligations.OnlyWideCommandsWriteResh : Prop :=
  ∀ (s t : State) (i : BitVec 3) (v : Word64) (rest : List PortEvent),
    step { s with port := .write i v :: rest } = .next t → t.resh ≠ s.resh →
      i = 4 ∧ t.status.toNat % 8 = 0
        ∧ (decode (v.setWidth 32) = .ok .umul128 ∨ ∃ sc rm aux, decode (v.setWidth 32) = .ok (.toDec sc rm aux))

/-- R406: a command raises only the failures its row of the table allows, and `InvalidOperand` only on the operands
the row names. Which patterns are NaN or infinite is read from the layout of R321 and R322, which the spec marks as
general knowledge (log 11, DEDUCED). -/
def Obligations.CommandsRaiseOnlyTheirListedFailures : Prop :=
  ∀ (i : Instr) (s t : State), exec i s = .next t → t.status.toNat % 8 ≠ 0 →
    mayRaise i (t.status.toNat % 8) = true
    ∧ (t.status.toNat % 8 = codeInvalidOperand →
        match i with
        | .udiv64 | .urem64 | .div _ _ _ => s.opb = 0
        | .shl _ | .shr _ => 63 < s.opb.toNat
        | .sqrt _ _ => s.opa.toInt < 0
        | .fromDbl _ _ => ¬ FinitePattern 11 52 s.opa.toNat
        | .fromFlt _ _ => ¬ FinitePattern 8 23 s.opa.toNat
        | _ => False)

/-- R54, R412: the same command issued again at once, with the same operands, leaves the state it left. -/
def Obligations.ReissuedCommandChangesNothingMore : Prop :=
  ∀ (i : Instr) (s t : State), exec i s = .next t → exec i t = .next t

/-- R151: UNCHECKED suppresses `RangeOverflow` only: where CHECKED ends otherwise both end alike, and a
`RangeOverflow` that UNCHECKED still raises (the exponent bound of `POW`) CHECKED raises too. -/
def Obligations.UncheckedDiffersOnlyOnRangeOverflow : Prop :=
  (∀ (i : Instr) (s t : State), exec (withOverflow .checked i) s = .next t →
      t.status.toNat % 8 ≠ codeRangeOverflow → exec (withOverflow .unchecked i) s = .next t)
  ∧ (∀ (i : Instr) (s t : State), exec (withOverflow .unchecked i) s = .next t →
      t.status.toNat % 8 = codeRangeOverflow → exec (withOverflow .checked i) s = .next t)

/-! ### The shared policies and multipliers -/

/-- R143: the whole table of the rounding selector. -/
def Obligations.RoundingSelectorFollowsItsTable : Prop :=
  ∀ (neg odd : Bool) (cls : RemClass),
    roundAdj .up neg odd cls = .ok (match cls with | .zero => 0 | .lt => 1 | .eq => 1 | .gt => 1)
    ∧ roundAdj .down neg odd cls = .ok 0
    ∧ roundAdj .ceiling false odd cls = .ok (match cls with | .zero => 0 | .lt => 1 | .eq => 1 | .gt => 1)
    ∧ roundAdj .ceiling true odd cls = .ok 0
    ∧ roundAdj .floor false odd cls = .ok 0
    ∧ roundAdj .floor true odd cls = .ok (match cls with | .zero => 0 | .lt => 1 | .eq => 1 | .gt => 1)
    ∧ roundAdj .halfUp neg odd cls = .ok (match cls with | .zero => 0 | .lt => 0 | .eq => 1 | .gt => 1)
    ∧ roundAdj .halfDown neg odd cls = .ok (match cls with | .zero => 0 | .lt => 0 | .eq => 0 | .gt => 1)
    ∧ roundAdj .halfEven neg false cls = .ok (match cls with | .zero => 0 | .lt => 0 | .eq => 0 | .gt => 1)
    ∧ roundAdj .halfEven neg true cls = .ok (match cls with | .zero => 0 | .lt => 0 | .eq => 1 | .gt => 1)
    ∧ roundAdj .unnecessary neg odd cls
        = (match cls with
          | .zero => .ok 0
          | .lt => .error .roundingRequired
          | .eq => .error .roundingRequired
          | .gt => .error .roundingRequired)

/-- R147 (a) to (g): the facts about the rounded division. -/
def Obligations.RoundedDivisionFacts : Prop :=
  ∀ n d : Int, d ≠ 0 →
    (∀ rm, d ∣ n → roundDiv n d rm = .ok (n / d))
    ∧ roundDiv n d .down = .ok (Int.tdiv n d)
    ∧ roundDiv n d .floor = .ok ⌊(n : ℚ) / d⌋
    ∧ roundDiv n d .ceiling = .ok ⌈(n : ℚ) / d⌉
    ∧ (∀ rm v, roundDiv n d rm = .ok v → |v - Int.tdiv n d| ≤ 1 ∧ |Int.tdiv n d| ≤ |v| ∧ 0 ≤ v * (n * d))
    ∧ (∀ rm ∈ [RoundMode.up, .down, .halfUp, .halfDown, .halfEven],
        roundDiv (-n) d rm = (roundDiv n d rm).map (fun v => -v))
    ∧ roundDiv (-n) d .floor = (roundDiv n d .ceiling).map (fun v => -v)
    ∧ (∀ rm, roundDiv n d rm = roundDiv (-n) (-d) rm)
    ∧ (∀ rm, roundDiv n 1 rm = .ok n)

/-- R142, R146: the rounded division is the rounding of the exact quotient that the mode names, and fails exactly
where UNNECESSARY meets a remainder. -/
def Obligations.RoundedDivisionIsTheModesRounding : Prop :=
  ∀ (n d : Int) (rm : RoundMode), d ≠ 0 →
    (∀ v, roundDiv n d rm = .ok v ↔ RoundsTo rm ((n : ℚ) / d) v)
    ∧ (∀ k, roundDiv n d rm = .error k ↔ k = .roundingRequired ∧ ¬ Determined rm ((n : ℚ) / d))

/-- R150: the overflow arbiter: the value itself, or `RangeOverflow`, or the value reduced modulo 2^64 into the
signed range. -/
def Obligations.OverflowArbiterFitsChecksOrWraps : Prop :=
  ∀ (v : Int) (ov : OvMode),
    (-2 ^ 63 ≤ v ∧ v ≤ 2 ^ 63 - 1 → narrow64 v ov = .ok v)
    ∧ (¬ (-2 ^ 63 ≤ v ∧ v ≤ 2 ^ 63 - 1) →
        narrow64 v .checked = .error .rangeOverflow
        ∧ ∃ w, narrow64 v .unchecked = .ok w ∧ -2 ^ 63 ≤ w ∧ w ≤ 2 ^ 63 - 1 ∧ (2 ^ 64 : Int) ∣ v - w)

/-- R171: the four-partial-product listing returns two 64-bit words that are the exact product. -/
def Obligations.WideMultiplyListingIsExact : Prop :=
  ∀ x y : Nat, x < 2 ^ 64 → y < 2 ^ 64 →
    (uMul128 x y).1 * 2 ^ 64 + (uMul128 x y).2 = x * y ∧ (uMul128 x y).1 < 2 ^ 64 ∧ (uMul128 x y).2 < 2 ^ 64

/-- R114, R176: the scale-factor multiplier built from half-words is exact, unsigned and signed. -/
def Obligations.ScaleMultiplierListingIsExact : Prop :=
  (∀ x sc : Nat, x < 2 ^ 64 → mulSf x sc = x * 10 ^ sc)
    ∧ ∀ (a : Int) (sc : Nat), -2 ^ 63 ≤ a → a < 2 ^ 63 → sMulSf a sc = a * 10 ^ sc

/-- R12: the integer square root. -/
def Obligations.IntegerSquareRootIsExact : Prop :=
  ∀ n : Nat, isqrt n * isqrt n ≤ n ∧ n < (isqrt n + 1) * (isqrt n + 1)

/-- R101: the 19 rows of the ROM as the spec prints them. -/
def Obligations.MetricsRomHoldsThePrintedRows : Prop :=
  metricsRom =
    [⟨1, 0, 1, 63, -9223372036854775808, 9223372036854775807⟩,
     ⟨10, 0, 0xA, 60, -922337203685477580, 922337203685477580⟩,
     ⟨100, 0, 0x64, 57, -92233720368547758, 92233720368547758⟩,
     ⟨1000, 0, 0x3E8, 54, -9223372036854775, 9223372036854775⟩,
     ⟨10000, 0, 0x2710, 50, -922337203685477, 922337203685477⟩,
     ⟨100000, 0, 0x186A0, 47, -92233720368547, 92233720368547⟩,
     ⟨1000000, 0, 0xF4240, 44, -9223372036854, 9223372036854⟩,
     ⟨10000000, 0, 0x989680, 40, -922337203685, 922337203685⟩,
     ⟨100000000, 0, 0x5F5E100, 37, -92233720368, 92233720368⟩,
     ⟨1000000000, 0, 0x3B9ACA00, 34, -9223372036, 9223372036⟩,
     ⟨10000000000, 0x2, 0x540BE400, 30, -922337203, 922337203⟩,
     ⟨100000000000, 0x17, 0x4876E800, 27, -92233720, 92233720⟩,
     ⟨1000000000000, 0xE8, 0xD4A51000, 24, -9223372, 9223372⟩,
     ⟨10000000000000, 0x918, 0x4E72A000, 20, -922337, 922337⟩,
     ⟨100000000000000, 0x5AF3, 0x107A4000, 17, -92233, 92233⟩,
     ⟨1000000000000000, 0x38D7E, 0xA4C68000, 14, -9223, 9223⟩,
     ⟨10000000000000000, 0x2386F2, 0x6FC10000, 10, -922, 922⟩,
     ⟨100000000000000000, 0x1634578, 0x5D8A0000, 7, -92, 92⟩,
     ⟨1000000000000000000, 0xDE0B6B3, 0xA7640000, 4, -9, 9⟩]

/-- R103: `MININT(s)` and `MAXINT(s)` bound exactly the integers whose unscaled form fits 64 bits. -/
def Obligations.MetricsBoundsAreTheRepresentableIntegers : Prop :=
  ∀ (sc : Nat) (n : Int), sc ≤ 18 →
    ((-2 ^ 63 ≤ n * 10 ^ sc ∧ n * 10 ^ sc ≤ 2 ^ 63 - 1) ↔ (metrics sc).minInt ≤ n ∧ n ≤ (metrics sc).maxInt)

/-! ### ScaleMetrics -/

/-- R104 to R107: the four table reads. -/
def Obligations.TableReadsGiveTheRow : Prop :=
  ∀ (sc : Nat) (s : State), sc ≤ 18 →
    (∃ t, exec (.smSf sc) s = .next t ∧ Succeeds s t (BitVec.ofInt 64 (10 ^ sc)))
    ∧ (∃ t, exec (.smMinInt sc) s = .next t ∧ Succeeds s t (BitVec.ofInt 64 (Int.tdiv (-2 ^ 63) (10 ^ sc))))
    ∧ (∃ t, exec (.smMaxInt sc) s = .next t ∧ Succeeds s t (BitVec.ofInt 64 (Int.tdiv (2 ^ 63 - 1) (10 ^ sc))))
    ∧ (∃ (t : State) (k : Nat), exec (.smNlz sc) s = .next t ∧ Succeeds s t (BitVec.ofNat 64 k)
        ∧ k ≤ 63 ∧ 2 ^ (63 - k) ≤ 10 ^ sc ∧ 10 ^ sc < 2 ^ (64 - k))

/-- R108: `SF.MUL` is the exact product truncated to 64 bits, and never fails. -/
def Obligations.ScaleFactorMultiplyWraps : Prop :=
  ∀ (sc : Nat) (s : State),
    ∃ t, exec (.sfMul sc) s = .next t ∧ Succeeds s t (BitVec.ofInt 64 (s.opa.toInt * 10 ^ sc))

/-- R109 to R111: the signed quotient and its remainder, truncated toward zero, and the unsigned quotient. -/
def Obligations.ScaleFactorDivisionTruncates : Prop :=
  ∀ (sc : Nat) (s : State),
    (∃ q r : Int, s.opa.toInt = 10 ^ sc * q + r ∧ |r| < 10 ^ sc ∧ 0 ≤ r * s.opa.toInt
      ∧ (∃ t, exec (.sfDiv sc) s = .next t ∧ Succeeds s t (BitVec.ofInt 64 q))
      ∧ (∃ t, exec (.sfMod sc) s = .next t ∧ Succeeds s t (BitVec.ofInt 64 r)))
    ∧ ∃ t, exec (.sfDivu sc) s = .next t ∧ Succeeds s t (BitVec.ofNat 64 (s.opa.toNat / 10 ^ sc))

/-- R112, R113: `SF.MULHI` and `SF.MULLO` of one half-word together rebuild its exact product with the scale
factor. -/
def Obligations.HalfWordProductsRebuildExactly : Prop :=
  ∀ (sc : Nat) (s : State), sc ≤ 18 →
    ∃ (t u : State) (hi lo : Nat),
      exec (.sfMulHi sc) s = .next t ∧ Succeeds s t (BitVec.ofNat 64 hi)
      ∧ exec (.sfMulLo sc) s = .next u ∧ Succeeds s u (BitVec.ofNat 64 lo)
      ∧ hi < 2 ^ 60 ∧ lo < 2 ^ 32 ∧ (hi <<< 32) ||| lo = s.opa.toNat % 2 ^ 32 * 10 ^ sc

/-! ### The wide primitives -/

/-- R172: `UMUL128` leaves the exact unsigned product in `RESH ∥ RES`. -/
def Obligations.WideMultiplyCommandIsExact : Prop :=
  ∀ s : State, ∃ (t : State) (hi lo : Word64), exec .umul128 s = .next t ∧ SucceedsWide s t hi lo
    ∧ hi.toNat * 2 ^ 64 + lo.toNat = s.opa.toNat * s.opb.toNat

/-- R173, R174: the unsigned quotient and remainder; a zero divisor is `InvalidOperand`. -/
def Obligations.UnsignedDivideAndRemainder : Prop :=
  ∀ s : State,
    (s.opb ≠ 0 → (∃ t, exec .udiv64 s = .next t ∧ Succeeds s t (BitVec.ofNat 64 (s.opa.toNat / s.opb.toNat)))
      ∧ ∃ t, exec .urem64 s = .next t ∧ Succeeds s t (BitVec.ofNat 64 (s.opa.toNat % s.opb.toNat)))
    ∧ (s.opb = 0 → (∃ t, exec .udiv64 s = .next t ∧ Fails s t codeInvalidOperand)
      ∧ ∃ t, exec .urem64 s = .next t ∧ Fails s t codeInvalidOperand)

/-! ### Scale-free arithmetic -/

/-- R200, R201: `ADD` and `SUB` give the exact sum and difference where they fit, wrap UNCHECKED and fail CHECKED
where they do not. -/
def Obligations.AddAndSubtractFollowTheOverflowPolicy : Prop :=
  ∀ (ov : OvMode) (s : State) (i : Instr) (v : Int),
    (i, v) ∈ [(.add ov, s.opa.toInt + s.opb.toInt), (.sub ov, s.opa.toInt - s.opb.toInt)] →
      (fits64 v ∨ ov = .unchecked → ∃ t, exec i s = .next t ∧ Succeeds s t (BitVec.ofInt 64 v))
      ∧ (¬ fits64 v ∧ ov = .checked → ∃ t, exec i s = .next t ∧ Fails s t codeRangeOverflow)

/-- R200, R201: the equivalent hardware tests: a CHECKED `ADD` fails exactly when the operands have the same sign and
the 64-bit sum the other, a CHECKED `SUB` exactly when they differ and the difference has the sign of `B`. -/
def Obligations.OverflowIsSeenInTheSigns : Prop :=
  ∀ s : State,
    (∃ t, exec (.add .checked) s = .next t
      ∧ (t.status.toNat % 8 = codeRangeOverflow
          ↔ s.opa.msb = s.opb.msb ∧ (s.opa + s.opb).msb ≠ s.opa.msb))
    ∧ ∃ t, exec (.sub .checked) s = .next t
      ∧ (t.status.toNat % 8 = codeRangeOverflow
          ↔ s.opa.msb ≠ s.opb.msb ∧ (s.opa - s.opb).msb = s.opb.msb)

/-- R210: `AVG` rounds half the exact sum by its mode; the result always fits, and only UNNECESSARY on an odd sum
fails. -/
def Obligations.AverageRoundsTheExactHalfSum : Prop :=
  ∀ (rm : RoundMode) (s : State),
    (Determined rm (((s.opa.toInt : ℚ) + s.opb.toInt) / 2) →
      ∃ v, RoundsTo rm (((s.opa.toInt : ℚ) + s.opb.toInt) / 2) v ∧ fits64 v
        ∧ ∃ t, exec (.avg rm) s = .next t ∧ Succeeds s t (BitVec.ofInt 64 v))
    ∧ (¬ Determined rm (((s.opa.toInt : ℚ) + s.opb.toInt) / 2) →
        ∃ t, exec (.avg rm) s = .next t ∧ Fails s t codeRoundingRequired)

/-- R216: `SHL` multiplies by a power of two under the overflow policy; a count above 63 is `InvalidOperand`. -/
def Obligations.ShiftLeftMultipliesByAPowerOfTwo : Prop :=
  ∀ (ov : OvMode) (s : State),
    (s.opb.toNat ≤ 63 →
      (fits64 (s.opa.toInt * 2 ^ s.opb.toNat) ∨ ov = .unchecked →
        ∃ t, exec (.shl ov) s = .next t ∧ Succeeds s t (BitVec.ofInt 64 (s.opa.toInt * 2 ^ s.opb.toNat)))
      ∧ (¬ fits64 (s.opa.toInt * 2 ^ s.opb.toNat) ∧ ov = .checked →
        ∃ t, exec (.shl ov) s = .next t ∧ Fails s t codeRangeOverflow))
    ∧ (63 < s.opb.toNat → ∃ t, exec (.shl ov) s = .next t ∧ Fails s t codeInvalidOperand)

/-- R218: `SHR` divides by a power of two under the rounding policy and always fits; a count above 63 is
`InvalidOperand`. -/
def Obligations.ShiftRightRoundsByTheMode : Prop :=
  ∀ (rm : RoundMode) (s : State),
    (s.opb.toNat ≤ 63 →
      (Determined rm ((s.opa.toInt : ℚ) / 2 ^ s.opb.toNat) →
        ∃ v, RoundsTo rm ((s.opa.toInt : ℚ) / 2 ^ s.opb.toNat) v ∧ fits64 v
          ∧ ∃ t, exec (.shr rm) s = .next t ∧ Succeeds s t (BitVec.ofInt 64 v))
      ∧ (¬ Determined rm ((s.opa.toInt : ℚ) / 2 ^ s.opb.toNat) →
        ∃ t, exec (.shr rm) s = .next t ∧ Fails s t codeRoundingRequired))
    ∧ (63 < s.opb.toNat → ∃ t, exec (.shr rm) s = .next t ∧ Fails s t codeInvalidOperand)

/-- R226 to R228: the comparisons give −1, 0 or 1 (`CMP`, `SIGNUM`) and 1 or 0 (`ISZERO`), and never fail. -/
def Obligations.ComparisonsGiveTheirValues : Prop :=
  ∀ s : State,
    (∃ t, exec .cmp s = .next t ∧ Succeeds s t
      (if s.opa.toInt < s.opb.toInt then 0xFFFFFFFFFFFFFFFF else if s.opa.toInt = s.opb.toInt then 0 else 1))
    ∧ (∃ t, exec .isZero s = .next t ∧ Succeeds s t (if s.opa = 0 then 1 else 0))
    ∧ ∃ t, exec .signum s = .next t ∧ Succeeds s t
      (if s.opa.toInt < 0 then 0xFFFFFFFFFFFFFFFF else if s.opa.toInt = 0 then 0 else 1)

/-! ### Scaled arithmetic -/

/-- R240: `MUL` rounds the exact product over the scale factor by its mode, then narrows by its overflow mode;
rounding fails first. -/
def Obligations.MultiplyRoundsThenNarrows : Prop :=
  ∀ (sc : Nat) (rm : RoundMode) (ov : OvMode) (s : State),
    (Determined rm ((s.opa.toInt : ℚ) * s.opb.toInt / 10 ^ sc) →
      ∃ v, RoundsTo rm ((s.opa.toInt : ℚ) * s.opb.toInt / 10 ^ sc) v
        ∧ (fits64 v ∨ ov = .unchecked →
          ∃ t, exec (.mul sc rm ov) s = .next t ∧ Succeeds s t (BitVec.ofInt 64 v))
        ∧ (¬ fits64 v ∧ ov = .checked → ∃ t, exec (.mul sc rm ov) s = .next t ∧ Fails s t codeRangeOverflow))
    ∧ (¬ Determined rm ((s.opa.toInt : ℚ) * s.opb.toInt / 10 ^ sc) →
        ∃ t, exec (.mul sc rm ov) s = .next t ∧ Fails s t codeRoundingRequired)

/-- R244: `DIV` by a divisor other than 0 rounds the exact quotient `A × 10^s / B`, then narrows. -/
def Obligations.DivideRoundsThenNarrows : Prop :=
  ∀ (sc : Nat) (rm : RoundMode) (ov : OvMode) (s : State), s.opb ≠ 0 →
    (Determined rm ((s.opa.toInt : ℚ) * 10 ^ sc / s.opb.toInt) →
      ∃ v, RoundsTo rm ((s.opa.toInt : ℚ) * 10 ^ sc / s.opb.toInt) v
        ∧ (fits64 v ∨ ov = .unchecked →
          ∃ t, exec (.div sc rm ov) s = .next t ∧ Succeeds s t (BitVec.ofInt 64 v))
        ∧ (¬ fits64 v ∧ ov = .checked → ∃ t, exec (.div sc rm ov) s = .next t ∧ Fails s t codeRangeOverflow))
    ∧ (¬ Determined rm ((s.opa.toInt : ℚ) * 10 ^ sc / s.opb.toInt) →
        ∃ t, exec (.div sc rm ov) s = .next t ∧ Fails s t codeRoundingRequired)

/-- R245: a zero divisor reports `InvalidOperand` whatever the scale, `rm` and `ov` are. -/
def Obligations.DivisionByZeroIsNeverSuppressed : Prop :=
  ∀ (sc : Nat) (rm : RoundMode) (ov : OvMode) (s : State), s.opb = 0 →
    ∃ t, exec (.div sc rm ov) s = .next t ∧ Fails s t codeInvalidOperand

/-- R250, R251: `POW` to the exponents 0 and 1, and above `POW_EXP_MAX`, in both overflow modes. -/
def Obligations.PowerOfSmallAndExcessiveExponents : Prop :=
  ∀ (sc : Nat) (rm : RoundMode) (ov : OvMode) (s : State),
    (s.opb.toNat = 0 → ∃ t, exec (.pow sc rm ov) s = .next t ∧ Succeeds s t (BitVec.ofInt 64 (10 ^ sc)))
    ∧ (s.opb.toNat = 1 → ∃ t, exec (.pow sc rm ov) s = .next t ∧ Succeeds s t s.opa)
    ∧ (Config.powExpMax < s.opb.toNat → ∃ t, exec (.pow sc rm ov) s = .next t ∧ Fails s t codeRangeOverflow)

/-- R250, R407: one more in the exponent is one more `MUL`, issued by the host on the power so far; a power that
failed fails alike with any larger exponent within the bound. -/
def Obligations.PowerIsRepeatedMultiplication : Prop :=
  ∀ (sc : Nat) (rm : RoundMode) (ov : OvMode) (s : State) (n : Nat), 1 ≤ n → n + 1 < 2 ^ 64 →
    ∃ t p, exec (.pow sc rm ov) { s with opb := BitVec.ofNat 64 n } = .next t
      ∧ exec (.pow sc rm ov) { s with opb := BitVec.ofNat 64 (n + 1) } = .next p
      ∧ (Config.powExpMax < n + 1 → p.status.toNat % 8 = codeRangeOverflow)
      ∧ (n + 1 ≤ Config.powExpMax → t.status.toNat % 8 ≠ 0 → p.status.toNat % 8 = t.status.toNat % 8)
      ∧ (n + 1 ≤ Config.powExpMax → t.status.toNat % 8 = 0 →
          ∃ u, exec (.mul sc rm ov) { s with opa := t.res, opb := s.opa } = .next u
            ∧ p.status.toNat % 8 = u.status.toNat % 8 ∧ p.res = u.res)

/-- R250: at scale 0 the UNCHECKED power, wrapped at every step, is the exact power wrapped once. -/
def Obligations.UncheckedIntegerPowerWrapsOnce : Prop :=
  ∀ (rm : RoundMode) (s : State), s.opb.toNat ≤ Config.powExpMax →
    ∃ t, exec (.pow 0 rm .unchecked) s = .next t ∧ Succeeds s t (BitVec.ofInt 64 (s.opa.toInt ^ s.opb.toNat))

/-- R256: `SQRT` rounds the root of `A × 10^s` by its mode and always fits; a negative operand is
`InvalidOperand`. -/
def Obligations.SquareRootRoundsByTheMode : Prop :=
  ∀ (sc : Nat) (rm : RoundMode) (s : State), sc ≤ 18 →
    (0 ≤ s.opa.toInt →
      (rm ≠ .unnecessary ∨ IsSquare (s.opa.toNat * 10 ^ sc) →
        ∃ v t, RootRoundsTo rm (s.opa.toNat * 10 ^ sc) v ∧ v < 2 ^ 63
          ∧ exec (.sqrt sc rm) s = .next t ∧ Succeeds s t (BitVec.ofNat 64 v))
      ∧ (rm = .unnecessary ∧ ¬ IsSquare (s.opa.toNat * 10 ^ sc) →
        ∃ t, exec (.sqrt sc rm) s = .next t ∧ Fails s t codeRoundingRequired))
    ∧ (s.opa.toInt < 0 → ∃ t, exec (.sqrt sc rm) s = .next t ∧ Fails s t codeInvalidOperand)

/-! ### Conversions -/

/-- R284: `FROMINT` succeeds exactly on the integers between `MININT(s)` and `MAXINT(s)`. -/
def Obligations.FromIntChecksTheIntegerBounds : Prop :=
  ∀ (sc : Nat) (s : State), sc ≤ 18 →
    ((metrics sc).minInt ≤ (s.opb ++ s.opa).toInt ∧ (s.opb ++ s.opa).toInt ≤ (metrics sc).maxInt →
      ∃ t, exec (.fromInt sc) s = .next t ∧ Succeeds s t (BitVec.ofInt 64 ((s.opb ++ s.opa).toInt * 10 ^ sc)))
    ∧ (¬ ((metrics sc).minInt ≤ (s.opb ++ s.opa).toInt ∧ (s.opb ++ s.opa).toInt ≤ (metrics sc).maxInt) →
      ∃ t, exec (.fromInt sc) s = .next t ∧ Fails s t codeRangeOverflow)

/-- R288: `TOINT` rounds `A / 10^s` by its mode and always fits. -/
def Obligations.ToIntRoundsAndAlwaysFits : Prop :=
  ∀ (sc : Nat) (rm : RoundMode) (s : State),
    (Determined rm ((s.opa.toInt : ℚ) / 10 ^ sc) →
      ∃ v, RoundsTo rm ((s.opa.toInt : ℚ) / 10 ^ sc) v ∧ fits64 v
        ∧ ∃ t, exec (.toInt sc rm) s = .next t ∧ Succeeds s t (BitVec.ofInt 64 v))
    ∧ (¬ Determined rm ((s.opa.toInt : ℚ) / 10 ^ sc) →
        ∃ t, exec (.toInt sc rm) s = .next t ∧ Fails s t codeRoundingRequired)

/-- R292: `FROMDEC` rounds `W × 10^s / 10^t` by its mode, then checks the range; at a target scale not below the
source's the quotient is an integer and no mode matters. -/
def Obligations.FromDecRescalesThenChecks : Prop :=
  ∀ (sc aux : Nat) (rm : RoundMode) (s : State),
    (Determined rm (((s.opb ++ s.opa).toInt : ℚ) * 10 ^ sc / 10 ^ aux) →
      ∃ v, RoundsTo rm (((s.opb ++ s.opa).toInt : ℚ) * 10 ^ sc / 10 ^ aux) v
        ∧ (fits64 v → ∃ t, exec (.fromDec sc rm aux) s = .next t ∧ Succeeds s t (BitVec.ofInt 64 v))
        ∧ (¬ fits64 v → ∃ t, exec (.fromDec sc rm aux) s = .next t ∧ Fails s t codeRangeOverflow))
    ∧ (¬ Determined rm (((s.opb ++ s.opa).toInt : ℚ) * 10 ^ sc / 10 ^ aux) →
        ∃ t, exec (.fromDec sc rm aux) s = .next t ∧ Fails s t codeRoundingRequired)

/-- R296: `TODEC` leaves in `RESH ∥ RES` the 128-bit integer that rounds `A × 10^t / 10^s` by its mode. -/
def Obligations.ToDecGivesTheWideResult : Prop :=
  ∀ (sc aux : Nat) (rm : RoundMode) (s : State), sc ≤ 18 → aux ≤ 18 →
    (Determined rm ((s.opa.toInt : ℚ) * 10 ^ aux / 10 ^ sc) →
      ∃ (v : Int) (t : State) (hi lo : Word64), RoundsTo rm ((s.opa.toInt : ℚ) * 10 ^ aux / 10 ^ sc) v
        ∧ exec (.toDec sc rm aux) s = .next t ∧ SucceedsWide s t hi lo ∧ (hi ++ lo).toInt = v)
    ∧ (¬ Determined rm ((s.opa.toInt : ℚ) * 10 ^ aux / 10 ^ sc) →
        ∃ t, exec (.toDec sc rm aux) s = .next t ∧ Fails s t codeRoundingRequired)

/-- R300: a value sent out by `TODEC` at its own or a larger scale and loaded back comes back exactly by `FROMDEC`, for
all modes; at its own scale the pair is its sign extension. -/
def Obligations.DecimalRoundTripIsExact : Prop :=
  ∀ (sc aux : Nat) (rm rm' : RoundMode) (s : State), sc ≤ aux → aux ≤ 18 →
    ∃ t, exec (.toDec sc rm' aux) s = .next t ∧ t.status.toNat % 8 = 0
      ∧ (sc = aux → (t.resh ++ t.res).toInt = s.opa.toInt)
      ∧ ∃ u, exec (.fromDec sc rm aux) { t with opa := t.res, opb := t.resh } = .next u
        ∧ Succeeds { t with opa := t.res, opb := t.resh } u s.opa

/-- R324, R326: `FROMDBL` rounds the exact binary value times `10^s` by its mode, then checks the range; a NaN or an
infinity is `InvalidOperand`. The layout of R321 and R322 is
marked general knowledge in the spec (log 11, DEDUCED). -/
def Obligations.FromDoubleRoundsTheExactValue : Prop :=
  ∀ (sc : Nat) (rm : RoundMode) (s : State),
    (¬ FinitePattern 11 52 s.opa.toNat →
      ∃ t, exec (.fromDbl sc rm) s = .next t ∧ Fails s t codeInvalidOperand)
    ∧ (FinitePattern 11 52 s.opa.toNat →
      (Determined rm (patternValue 11 52 s.opa.toNat * 10 ^ sc) →
        ∃ v, RoundsTo rm (patternValue 11 52 s.opa.toNat * 10 ^ sc) v
          ∧ (fits64 v → ∃ t, exec (.fromDbl sc rm) s = .next t ∧ Succeeds s t (BitVec.ofInt 64 v))
          ∧ (¬ fits64 v → ∃ t, exec (.fromDbl sc rm) s = .next t ∧ Fails s t codeRangeOverflow))
      ∧ (¬ Determined rm (patternValue 11 52 s.opa.toNat * 10 ^ sc) →
        ∃ t, exec (.fromDbl sc rm) s = .next t ∧ Fails s t codeRoundingRequired))

/-- R324, R328: the same of `FROMFLT`, whose pattern is `OPA[31:0]`. The layout of R321 and R322 is
marked general knowledge in the spec (log 11, DEDUCED). -/
def Obligations.FromFloatRoundsTheExactValue : Prop :=
  ∀ (sc : Nat) (rm : RoundMode) (s : State),
    (¬ FinitePattern 8 23 (s.opa.toNat % 2 ^ 32) →
      ∃ t, exec (.fromFlt sc rm) s = .next t ∧ Fails s t codeInvalidOperand)
    ∧ (FinitePattern 8 23 (s.opa.toNat % 2 ^ 32) →
      (Determined rm (patternValue 8 23 (s.opa.toNat % 2 ^ 32) * 10 ^ sc) →
        ∃ v, RoundsTo rm (patternValue 8 23 (s.opa.toNat % 2 ^ 32) * 10 ^ sc) v
          ∧ (fits64 v → ∃ t, exec (.fromFlt sc rm) s = .next t ∧ Succeeds s t (BitVec.ofInt 64 v))
          ∧ (¬ fits64 v → ∃ t, exec (.fromFlt sc rm) s = .next t ∧ Fails s t codeRangeOverflow))
      ∧ (¬ Determined rm (patternValue 8 23 (s.opa.toNat % 2 ^ 32) * 10 ^ sc) →
        ∃ t, exec (.fromFlt sc rm) s = .next t ∧ Fails s t codeRoundingRequired))

/-- R330, R334: `TODBL` gives +0.0 for 0, else the exact `A / 10^s` rounded once, by its mode, to a 53-bit
significand: a normal number, `m × 2^(e − 52)` where `2^e` is the binade of the exact value. The layout
of R321 and R322 is marked general knowledge in the spec (log 11, DEDUCED). -/
def Obligations.ToDoubleRoundsOnce : Prop :=
  ∀ (sc : Nat) (rm : RoundMode) (s : State), sc ≤ 18 →
    (s.opa = 0 → ∃ t, exec (.toDbl sc rm) s = .next t ∧ Succeeds s t 0)
    ∧ (s.opa ≠ 0 → ∃ e : Int,
        (2 : ℚ) ^ e ≤ |(s.opa.toInt : ℚ) / 10 ^ sc| ∧ |(s.opa.toInt : ℚ) / 10 ^ sc| < (2 : ℚ) ^ (e + 1)
        ∧ (Determined rm ((s.opa.toInt : ℚ) / 10 ^ sc * (2 : ℚ) ^ (52 - e)) →
          ∃ (m : Int) (t : State), RoundsTo rm ((s.opa.toInt : ℚ) / 10 ^ sc * (2 : ℚ) ^ (52 - e)) m
            ∧ exec (.toDbl sc rm) s = .next t ∧ Succeeds s t t.res
            ∧ FinitePattern 11 52 t.res.toNat ∧ 0 < t.res.toNat / 2 ^ 52 % 2 ^ 11
            ∧ patternValue 11 52 t.res.toNat = m * (2 : ℚ) ^ (e - 52))
        ∧ (¬ Determined rm ((s.opa.toInt : ℚ) / 10 ^ sc * (2 : ℚ) ^ (52 - e)) →
          ∃ t, exec (.toDbl sc rm) s = .next t ∧ Fails s t codeRoundingRequired))

/-- R330, R336: the same of `TOFLT`, with a 24-bit significand, straight from the exact value; `RES[63:32]` is 0. The
layout of R321 and R322 is marked general knowledge in the spec (log 11, DEDUCED). -/
def Obligations.ToFloatRoundsOnce : Prop :=
  ∀ (sc : Nat) (rm : RoundMode) (s : State), sc ≤ 18 →
    (s.opa = 0 → ∃ t, exec (.toFlt sc rm) s = .next t ∧ Succeeds s t 0)
    ∧ (s.opa ≠ 0 → ∃ e : Int,
        (2 : ℚ) ^ e ≤ |(s.opa.toInt : ℚ) / 10 ^ sc| ∧ |(s.opa.toInt : ℚ) / 10 ^ sc| < (2 : ℚ) ^ (e + 1)
        ∧ (Determined rm ((s.opa.toInt : ℚ) / 10 ^ sc * (2 : ℚ) ^ (23 - e)) →
          ∃ (m : Int) (t : State), RoundsTo rm ((s.opa.toInt : ℚ) / 10 ^ sc * (2 : ℚ) ^ (23 - e)) m
            ∧ exec (.toFlt sc rm) s = .next t ∧ Succeeds s t t.res ∧ t.res.toNat < 2 ^ 32
            ∧ FinitePattern 8 23 t.res.toNat ∧ 0 < t.res.toNat / 2 ^ 23 % 2 ^ 8
            ∧ patternValue 8 23 t.res.toNat = m * (2 : ℚ) ^ (e - 23))
        ∧ (¬ Determined rm ((s.opa.toInt : ℚ) / 10 ^ sc * (2 : ℚ) ^ (23 - e)) →
          ∃ t, exec (.toFlt sc rm) s = .next t ∧ Fails s t codeRoundingRequired))

/-- R340 (b), (c): at scale 0 an integer of magnitude below 2^53 goes to a double exactly in every mode and comes back
by `FROMDBL` in every mode. The layout of R321 and R322 is
marked general knowledge in the spec (log 11, DEDUCED). -/
def Obligations.SmallIntegersSurviveADouble : Prop :=
  ∀ (rm rm' : RoundMode) (s : State), |s.opa.toInt| < 2 ^ 53 →
    ∃ t, exec (.toDbl 0 rm) s = .next t ∧ t.status.toNat % 8 = 0
      ∧ FinitePattern 11 52 t.res.toNat ∧ patternValue 11 52 t.res.toNat = (s.opa.toInt : ℚ)
      ∧ ∃ u, exec (.fromDbl 0 rm') { t with opa := t.res } = .next u ∧ Succeeds { t with opa := t.res } u s.opa

/-! ### The host lines -/

/-- R82, R280: `LDW` writes to `OPA` and then to `OPB` the two halves of exactly the value named, and a value beyond
the 128-bit carrier is refused; a command line writes the command's word, and one with a scale or auxiliary scale above
18 is refused. That a host line stands for a list of events of `port` is the model's choice (log 1, log 14); that the
carrier holds −2^127 is read from R82 and R280 (a) (log 16, DEDUCED). -/
def Obligations.HostLinesPresentOnlyWhatTheRegistersCarry : Prop :=
  (∀ v : Int,
    (-2 ^ 127 ≤ v ∧ v ≤ 2 ^ 127 - 1 →
      ∃ lo hi : Word64, (HostLine.ldw v).events = some [.write 0 lo, .write 1 hi] ∧ (hi ++ lo).toInt = v)
    ∧ (¬ (-2 ^ 127 ≤ v ∧ v ≤ 2 ^ 127 - 1) → (HostLine.ldw v).events = none))
  ∧ ∀ i : Instr,
    (i.wf = true → ∃ d : Word64, (HostLine.command i).events = some [.write 4 d] ∧ decode (d.setWidth 32) = .ok i)
    ∧ (i.wf = false → (HostLine.command i).events = none)
end

