-- ==== Sys2Proof/Laws/Decode.lean ====
section
/-! SUPPORT. Packing fields into a word and reading them back; the mode codes. -/

namespace Sys2Proof

@[simp] theorem RoundMode.ofCode_code (rm : RoundMode) : RoundMode.ofCode rm.code = rm := by cases rm <;> rfl

@[simp] theorem OvMode.ofCode_code (ov : OvMode) : OvMode.ofCode ov.code = ov := by cases ov <;> rfl

theorem RoundMode.code_lt (rm : RoundMode) : rm.code < 8 := by cases rm <;> decide

theorem OvMode.code_lt (ov : OvMode) : ov.code < 2 := by cases ov <;> decide

/-- A scale the check admits. -/
theorem scaleOk_iff (sc : Nat) : scaleOk sc = true ↔ sc ≤ 18 := decide_eq_true_iff

/-- Fields within their widths come back from the packed word. -/
theorem fieldsOf_pack (f : Fields) (h : f.op < 256 ∧ f.sc < 32 ∧ f.rm < 8 ∧ f.ov < 2 ∧ f.aux < 32 ∧ f.rsv < 1024) :
    fieldsOf (pack f) = f := by
  obtain ⟨op, sc, rm, ov, aux, rsv⟩ := f
  obtain ⟨h1, h2, h3, h4, h5, h6⟩ := h
  simp only [fieldsOf, pack, Machine.slice, BitVec.toNat_ofNat, Fields.mk.injEq] at *
  refine ⟨?_, ?_, ?_, ?_, ?_, ?_⟩ <;> omega

/-- The fields of any word are within their widths. -/
theorem fieldsOf_lt (w : Word32) :
    (fieldsOf w).op < 256 ∧ (fieldsOf w).sc < 32 ∧ (fieldsOf w).rm < 8 ∧ (fieldsOf w).ov < 2
      ∧ (fieldsOf w).aux < 32 ∧ (fieldsOf w).rsv < 1024 := by
  simp only [fieldsOf, Machine.slice]
  refine ⟨?_, ?_, ?_, ?_, ?_, ?_⟩ <;> omega

/-- A word is the packing of its fields. -/
theorem pack_fieldsOf (w : Word32) : pack (fieldsOf w) = w := by
  apply BitVec.eq_of_toNat_eq
  have := w.isLt
  simp only [fieldsOf, pack, Machine.slice, BitVec.toNat_ofNat]
  omega

end Sys2Proof
end

