-- ==== Sys2Proof/Laws/State.lean ====
section
/-! SUPPORT. What each update of State leaves in each field: one lemma per field per update, so that no later proof
unfolds a record update. -/

namespace Sys2Proof.Machine

variable (s : State)

@[simp] theorem State.succeed_opa (r : Word64) : (s.succeed r).opa = s.opa := rfl
@[simp] theorem State.succeed_opb (r : Word64) : (s.succeed r).opb = s.opb := rfl
@[simp] theorem State.succeed_res (r : Word64) : (s.succeed r).res = r := rfl
@[simp] theorem State.succeed_resh (r : Word64) : (s.succeed r).resh = s.resh := rfl
@[simp] theorem State.succeed_cmd (r : Word64) : (s.succeed r).cmd = s.cmd := rfl
@[simp] theorem State.succeed_status (r : Word64) : (s.succeed r).status = withErr s.status 0 := rfl
@[simp] theorem State.succeed_flags (r : Word64) : (s.succeed r).flags = s.flags := rfl
@[simp] theorem State.succeed_port (r : Word64) : (s.succeed r).port = s.port := rfl
@[simp] theorem State.succeed_returned (r : Word64) : (s.succeed r).returned = s.returned := rfl

@[simp] theorem State.succeedWide_opa (hi lo : Word64) : (s.succeedWide hi lo).opa = s.opa := rfl
@[simp] theorem State.succeedWide_opb (hi lo : Word64) : (s.succeedWide hi lo).opb = s.opb := rfl
@[simp] theorem State.succeedWide_res (hi lo : Word64) : (s.succeedWide hi lo).res = lo := rfl
@[simp] theorem State.succeedWide_resh (hi lo : Word64) : (s.succeedWide hi lo).resh = hi := rfl
@[simp] theorem State.succeedWide_cmd (hi lo : Word64) : (s.succeedWide hi lo).cmd = s.cmd := rfl
@[simp] theorem State.succeedWide_status (hi lo : Word64) : (s.succeedWide hi lo).status = withErr s.status 0 := rfl
@[simp] theorem State.succeedWide_flags (hi lo : Word64) : (s.succeedWide hi lo).flags = s.flags := rfl
@[simp] theorem State.succeedWide_port (hi lo : Word64) : (s.succeedWide hi lo).port = s.port := rfl
@[simp] theorem State.succeedWide_returned (hi lo : Word64) : (s.succeedWide hi lo).returned = s.returned := rfl

@[simp] theorem State.fail_opa (k : FailKind) : (s.fail k).opa = s.opa := rfl
@[simp] theorem State.fail_opb (k : FailKind) : (s.fail k).opb = s.opb := rfl
@[simp] theorem State.fail_res (k : FailKind) : (s.fail k).res = s.res := rfl
@[simp] theorem State.fail_resh (k : FailKind) : (s.fail k).resh = s.resh := rfl
@[simp] theorem State.fail_cmd (k : FailKind) : (s.fail k).cmd = s.cmd := rfl
@[simp] theorem State.fail_status (k : FailKind) : (s.fail k).status = withErr s.status k.code := rfl
@[simp] theorem State.fail_flags (k : FailKind) : (s.fail k).flags = withFlag s.flags k.code := rfl
@[simp] theorem State.fail_port (k : FailKind) : (s.fail k).port = s.port := rfl
@[simp] theorem State.fail_returned (k : FailKind) : (s.fail k).returned = s.returned := rfl

@[simp] theorem State.resetRegisters_opa : (s.resetRegisters).opa = 0 := rfl
@[simp] theorem State.resetRegisters_opb : (s.resetRegisters).opb = 0 := rfl
@[simp] theorem State.resetRegisters_res : (s.resetRegisters).res = 0 := rfl
@[simp] theorem State.resetRegisters_resh : (s.resetRegisters).resh = 0 := rfl
@[simp] theorem State.resetRegisters_cmd : (s.resetRegisters).cmd = 0 := rfl
@[simp] theorem State.resetRegisters_status : (s.resetRegisters).status = 0 := rfl
@[simp] theorem State.resetRegisters_flags : (s.resetRegisters).flags = 0 := rfl
@[simp] theorem State.resetRegisters_port : (s.resetRegisters).port = s.port := rfl
@[simp] theorem State.resetRegisters_returned : (s.resetRegisters).returned = s.returned := rfl

@[simp] theorem presentCommand_opa (w : Word32) : (presentCommand s w).opa = s.opa := rfl
@[simp] theorem presentCommand_opb (w : Word32) : (presentCommand s w).opb = s.opb := rfl
@[simp] theorem presentCommand_res (w : Word32) : (presentCommand s w).res = s.res := rfl
@[simp] theorem presentCommand_resh (w : Word32) : (presentCommand s w).resh = s.resh := rfl
@[simp] theorem presentCommand_cmd (w : Word32) : (presentCommand s w).cmd = s.cmd := rfl
@[simp] theorem presentCommand_status (w : Word32) : (presentCommand s w).status = s.status := rfl
@[simp] theorem presentCommand_flags (w : Word32) : (presentCommand s w).flags = s.flags := rfl
@[simp] theorem presentCommand_port (w : Word32) : (presentCommand s w).port = .write 4 (w.setWidth 64) :: s.port := rfl
@[simp] theorem presentCommand_returned (w : Word32) : (presentCommand s w).returned = s.returned := rfl

@[simp] theorem reset_opa : State.reset.opa = 0 := rfl
@[simp] theorem reset_opb : State.reset.opb = 0 := rfl
@[simp] theorem reset_res : State.reset.res = 0 := rfl
@[simp] theorem reset_resh : State.reset.resh = 0 := rfl
@[simp] theorem reset_cmd : State.reset.cmd = 0 := rfl
@[simp] theorem reset_status : State.reset.status = 0 := rfl
@[simp] theorem reset_flags : State.reset.flags = 0 := rfl
@[simp] theorem reset_port : State.reset.port = [] := rfl
@[simp] theorem reset_returned : State.reset.returned = [] := rfl

end Sys2Proof.Machine
end

