-- ==== Sys2Proof/Laws/Ops.lean ====
section
/-! SUPPORT. The two recording registers bit by bit, and how a command can end: the lemmas that a proof about a
command cites instead of unfolding `finish`, `succeed` and `fail`. -/

namespace Sys2Proof.Machine

/-- `STATUS.ERR <- c` leaves `c mod 8` in bits 2:0. -/
@[simp] theorem withErr_mod (st : Word32) (c : Nat) : (withErr st c).toNat % 8 = c % 8 := by
  have h8 : (8 : Nat) = 2 ^ 3 := rfl
  have h7 : (~~~0x7#32).toNat % 2 ^ 3 = 0 := by decide
  unfold withErr
  rw [BitVec.toNat_or, BitVec.toNat_and, BitVec.toNat_and, h8, Nat.or_mod_two_pow, Nat.and_mod_two_pow, h7,
    Nat.and_zero, Nat.zero_or, Nat.and_mod_two_pow, BitVec.toNat_ofNat, Nat.mod_mod_of_dvd _ (by decide)]
  exact Nat.and_two_pow_sub_one_of_lt_two_pow (Nat.mod_lt _ (by decide))

/-- `STATUS.ERR <- c` leaves bits 31:3 as they were. -/
@[simp] theorem withErr_div (st : Word32) (c : Nat) : (withErr st c).toNat / 8 = st.toNat / 8 := by
  have h8 : (8 : Nat) = 2 ^ 3 := rfl
  have h7 : (~~~0x7#32).toNat / 2 ^ 3 = 2 ^ 29 - 1 := by decide
  have h0 : (0x7#32).toNat / 2 ^ 3 = 0 := by decide
  unfold withErr
  rw [BitVec.toNat_or, BitVec.toNat_and, BitVec.toNat_and, h8, Nat.or_div_two_pow, Nat.and_div_two_pow,
    Nat.and_div_two_pow, h7, h0, Nat.and_zero, Nat.or_zero]
  exact Nat.and_two_pow_sub_one_of_lt_two_pow (by have := st.isLt; omega)

/-- Writing a code and then another leaves the second. -/
@[simp] theorem withErr_withErr (st : Word32) (c d : Nat) : withErr (withErr st c) d = withErr st d := by
  apply BitVec.eq_of_toNat_eq
  have h1 := withErr_mod (withErr st c) d
  have h2 := withErr_div (withErr st c) d
  have h3 := withErr_mod st d
  have h4 := withErr_div st d
  have h5 := withErr_div st c
  omega

/-- `FLAGS[c − 1] <- 1`, bit by bit, for a code `c` of 1..32. -/
theorem withFlag_getLsbD (f : Word32) (c k : Nat) (hk : k < 32) :
    (withFlag f c).getLsbD k = (f.getLsbD k || k == c - 1) := by
  simp only [withFlag, BitVec.getLsbD_or, BitVec.getLsbD_shiftLeft, hk, decide_true, Bool.true_and]
  congr 1
  by_cases h : k = c - 1
  · subst h; simp
  · by_cases h' : k < c - 1
    · simp [h, h']
    · have hne : k - (c - 1) ≠ 0 := by omega
      simp [h, h', hne]

/-- Setting a flag twice is setting it once. -/
@[simp] theorem withFlag_withFlag (f : Word32) (c : Nat) : withFlag (withFlag f c) c = withFlag f c := by
  simp [withFlag, BitVec.or_assoc]

/-- A write-one-to-clear of `FLAGS`, bit by bit. -/
theorem clearFlags_getLsbD (f v : Word32) (k : Nat) (hk : k < 32) :
    (clearFlags f v).getLsbD k = (f.getLsbD k && !(decide (k < 4) && v.getLsbD k)) := by
  have h : (0xF#32).getLsbD k = decide (k < 4) := by
    revert k
    decide
  simp only [clearFlags, BitVec.getLsbD_and, BitVec.getLsbD_not, hk, decide_true, Bool.true_and, h]
  rw [Bool.and_comm (v.getLsbD k)]

/-- Every code of a failure is 1, 2, 3 or 4. -/
theorem FailKind.code_range (k : FailKind) : 1 ≤ k.code ∧ k.code ≤ 4 := by cases k <;> decide

/-- A success in the terms of Safety. -/
theorem succeed_succeeds (s : State) (r : Word64) : Safety.Succeeds s (s.succeed r) r := by
  simp [Safety.Succeeds, Safety.KeepsRest]

/-- A wide success in the terms of Safety. -/
theorem succeedWide_succeeds (s : State) (hi lo : Word64) :
    Safety.SucceedsWide s (s.succeedWide hi lo) hi lo := by
  simp [Safety.SucceedsWide, Safety.KeepsRest]

/-- A failure in the terms of Safety. -/
theorem fail_fails (s : State) (k : FailKind) : Safety.Fails s (s.fail k) k.code := by
  refine ⟨rfl, rfl, ?_, fun j hj => withFlag_getLsbD _ _ _ hj, rfl, rfl, rfl, rfl, rfl, withErr_div _ _⟩
  have := k.code_range
  rw [State.fail_status, withErr_mod, Nat.mod_eq_of_lt (by omega)]

/-- How a command with a 64-bit result can end, and that it always ends in a next state. -/
theorem finish_cases (s : State) (x : Except FailKind Word64) :
    (∃ r, x = .ok r ∧ s.finish x = .next (s.succeed r)) ∨ (∃ k, x = .error k ∧ s.finish x = .next (s.fail k)) := by
  cases x with
  | ok r => exact .inl ⟨r, rfl, rfl⟩
  | error k => exact .inr ⟨k, rfl, rfl⟩

/-- How a command with a wide result can end. -/
theorem finishWide_cases (s : State) (x : Except FailKind (Word64 × Word64)) :
    (∃ hi lo, x = .ok (hi, lo) ∧ s.finishWide x = .next (s.succeedWide hi lo))
      ∨ (∃ k, x = .error k ∧ s.finishWide x = .next (s.fail k)) := by
  cases x with
  | ok r => exact .inl ⟨r.1, r.2, rfl, rfl⟩
  | error k => exact .inr ⟨k, rfl, rfl⟩

@[simp] theorem finish_ok (s : State) (r : Word64) : s.finish (.ok r) = .next (s.succeed r) := rfl

@[simp] theorem finish_error (s : State) (k : FailKind) : s.finish (.error k) = .next (s.fail k) := rfl

@[simp] theorem finishWide_ok (s : State) (hi lo : Word64) :
    s.finishWide (.ok (hi, lo)) = .next (s.succeedWide hi lo) := rfl

@[simp] theorem finishWide_error (s : State) (k : FailKind) : s.finishWide (.error k) = .next (s.fail k) := rfl

end Sys2Proof.Machine
end

