-- ==== Sys2Proof/Laws/PerInstr.lean ====
section
/-! SUPPORT. One statement for every command, proved per constructor: its word carries its fields, each in its place
and zero elsewhere (spec/30_encoding.md R71). -/

namespace Sys2Proof.Laws

/-- The word of a well-formed command reads back as the command's fields. -/
def CanonicalWord.Statement (i : Instr) : Prop := i.wf = true → fieldsOf (encode i) = i.fields

theorem CanonicalWord.smSf (sc : Nat) : CanonicalWord.Statement (.smSf sc) := by
  intro h
  simp only [Instr.wf, scaleOk_iff] at h
  exact fieldsOf_pack _ (by simp only [Instr.fields]; omega)

theorem CanonicalWord.smMinInt (sc : Nat) : CanonicalWord.Statement (.smMinInt sc) := by
  intro h
  simp only [Instr.wf, scaleOk_iff] at h
  exact fieldsOf_pack _ (by simp only [Instr.fields]; omega)

theorem CanonicalWord.smMaxInt (sc : Nat) : CanonicalWord.Statement (.smMaxInt sc) := by
  intro h
  simp only [Instr.wf, scaleOk_iff] at h
  exact fieldsOf_pack _ (by simp only [Instr.fields]; omega)

theorem CanonicalWord.smNlz (sc : Nat) : CanonicalWord.Statement (.smNlz sc) := by
  intro h
  simp only [Instr.wf, scaleOk_iff] at h
  exact fieldsOf_pack _ (by simp only [Instr.fields]; omega)

theorem CanonicalWord.sfMul (sc : Nat) : CanonicalWord.Statement (.sfMul sc) := by
  intro h
  simp only [Instr.wf, scaleOk_iff] at h
  exact fieldsOf_pack _ (by simp only [Instr.fields]; omega)

theorem CanonicalWord.sfDiv (sc : Nat) : CanonicalWord.Statement (.sfDiv sc) := by
  intro h
  simp only [Instr.wf, scaleOk_iff] at h
  exact fieldsOf_pack _ (by simp only [Instr.fields]; omega)

theorem CanonicalWord.sfMod (sc : Nat) : CanonicalWord.Statement (.sfMod sc) := by
  intro h
  simp only [Instr.wf, scaleOk_iff] at h
  exact fieldsOf_pack _ (by simp only [Instr.fields]; omega)

theorem CanonicalWord.sfDivu (sc : Nat) : CanonicalWord.Statement (.sfDivu sc) := by
  intro h
  simp only [Instr.wf, scaleOk_iff] at h
  exact fieldsOf_pack _ (by simp only [Instr.fields]; omega)

theorem CanonicalWord.sfMulHi (sc : Nat) : CanonicalWord.Statement (.sfMulHi sc) := by
  intro h
  simp only [Instr.wf, scaleOk_iff] at h
  exact fieldsOf_pack _ (by simp only [Instr.fields]; omega)

theorem CanonicalWord.sfMulLo (sc : Nat) : CanonicalWord.Statement (.sfMulLo sc) := by
  intro h
  simp only [Instr.wf, scaleOk_iff] at h
  exact fieldsOf_pack _ (by simp only [Instr.fields]; omega)

theorem CanonicalWord.umul128 : CanonicalWord.Statement .umul128 := fun _ => by decide

theorem CanonicalWord.udiv64 : CanonicalWord.Statement .udiv64 := fun _ => by decide

theorem CanonicalWord.urem64 : CanonicalWord.Statement .urem64 := fun _ => by decide

theorem CanonicalWord.add (ov : OvMode) : CanonicalWord.Statement (.add ov) := by
  intro _
  have h2 := ov.code_lt
  exact fieldsOf_pack _ (by simp only [Instr.fields]; omega)

theorem CanonicalWord.sub (ov : OvMode) : CanonicalWord.Statement (.sub ov) := by
  intro _
  have h2 := ov.code_lt
  exact fieldsOf_pack _ (by simp only [Instr.fields]; omega)

theorem CanonicalWord.mul (sc : Nat) (rm : RoundMode) (ov : OvMode) : CanonicalWord.Statement (.mul sc rm ov) := by
  intro h
  have h1 := rm.code_lt
  have h2 := ov.code_lt
  simp only [Instr.wf, scaleOk_iff] at h
  exact fieldsOf_pack _ (by simp only [Instr.fields]; omega)

theorem CanonicalWord.div (sc : Nat) (rm : RoundMode) (ov : OvMode) : CanonicalWord.Statement (.div sc rm ov) := by
  intro h
  have h1 := rm.code_lt
  have h2 := ov.code_lt
  simp only [Instr.wf, scaleOk_iff] at h
  exact fieldsOf_pack _ (by simp only [Instr.fields]; omega)

theorem CanonicalWord.avg (rm : RoundMode) : CanonicalWord.Statement (.avg rm) := by
  intro _
  have h1 := rm.code_lt
  exact fieldsOf_pack _ (by simp only [Instr.fields]; omega)

theorem CanonicalWord.pow (sc : Nat) (rm : RoundMode) (ov : OvMode) : CanonicalWord.Statement (.pow sc rm ov) := by
  intro h
  have h1 := rm.code_lt
  have h2 := ov.code_lt
  simp only [Instr.wf, scaleOk_iff] at h
  exact fieldsOf_pack _ (by simp only [Instr.fields]; omega)

theorem CanonicalWord.sqrt (sc : Nat) (rm : RoundMode) : CanonicalWord.Statement (.sqrt sc rm) := by
  intro h
  have h1 := rm.code_lt
  simp only [Instr.wf, scaleOk_iff] at h
  exact fieldsOf_pack _ (by simp only [Instr.fields]; omega)

theorem CanonicalWord.shl (ov : OvMode) : CanonicalWord.Statement (.shl ov) := by
  intro _
  have h2 := ov.code_lt
  exact fieldsOf_pack _ (by simp only [Instr.fields]; omega)

theorem CanonicalWord.shr (rm : RoundMode) : CanonicalWord.Statement (.shr rm) := by
  intro _
  have h1 := rm.code_lt
  exact fieldsOf_pack _ (by simp only [Instr.fields]; omega)

theorem CanonicalWord.cmp : CanonicalWord.Statement .cmp := fun _ => by decide

theorem CanonicalWord.isZero : CanonicalWord.Statement .isZero := fun _ => by decide

theorem CanonicalWord.signum : CanonicalWord.Statement .signum := fun _ => by decide

theorem CanonicalWord.fromInt (sc : Nat) : CanonicalWord.Statement (.fromInt sc) := by
  intro h
  simp only [Instr.wf, scaleOk_iff] at h
  exact fieldsOf_pack _ (by simp only [Instr.fields]; omega)

theorem CanonicalWord.toInt (sc : Nat) (rm : RoundMode) : CanonicalWord.Statement (.toInt sc rm) := by
  intro h
  have h1 := rm.code_lt
  simp only [Instr.wf, scaleOk_iff] at h
  exact fieldsOf_pack _ (by simp only [Instr.fields]; omega)

theorem CanonicalWord.fromDec (sc : Nat) (rm : RoundMode) (aux : Nat) : CanonicalWord.Statement (.fromDec sc rm aux) := by
  intro h
  have h1 := rm.code_lt
  simp only [Instr.wf, Bool.and_eq_true, scaleOk_iff] at h
  exact fieldsOf_pack _ (by simp only [Instr.fields]; omega)

theorem CanonicalWord.toDec (sc : Nat) (rm : RoundMode) (aux : Nat) : CanonicalWord.Statement (.toDec sc rm aux) := by
  intro h
  have h1 := rm.code_lt
  simp only [Instr.wf, Bool.and_eq_true, scaleOk_iff] at h
  exact fieldsOf_pack _ (by simp only [Instr.fields]; omega)

theorem CanonicalWord.fromDbl (sc : Nat) (rm : RoundMode) : CanonicalWord.Statement (.fromDbl sc rm) := by
  intro h
  have h1 := rm.code_lt
  simp only [Instr.wf, scaleOk_iff] at h
  exact fieldsOf_pack _ (by simp only [Instr.fields]; omega)

theorem CanonicalWord.toDbl (sc : Nat) (rm : RoundMode) : CanonicalWord.Statement (.toDbl sc rm) := by
  intro h
  have h1 := rm.code_lt
  simp only [Instr.wf, scaleOk_iff] at h
  exact fieldsOf_pack _ (by simp only [Instr.fields]; omega)

theorem CanonicalWord.fromFlt (sc : Nat) (rm : RoundMode) : CanonicalWord.Statement (.fromFlt sc rm) := by
  intro h
  have h1 := rm.code_lt
  simp only [Instr.wf, scaleOk_iff] at h
  exact fieldsOf_pack _ (by simp only [Instr.fields]; omega)

theorem CanonicalWord.toFlt (sc : Nat) (rm : RoundMode) : CanonicalWord.Statement (.toFlt sc rm) := by
  intro h
  have h1 := rm.code_lt
  simp only [Instr.wf, scaleOk_iff] at h
  exact fieldsOf_pack _ (by simp only [Instr.fields]; omega)

end Sys2Proof.Laws
end

