-- ==== Sys2Proof/Laws/Policy.lean ====
section
/-! SUPPORT. What the rounding selector, the rounded division, the overflow arbiter and the shift count can answer. -/

namespace Sys2Proof.Machine

@[simp] theorem except_ok_bind {α β ε : Type} (a : α) (f : α → Except ε β) : (Except.ok a >>= f) = f a := rfl

@[simp] theorem except_error_bind {α β ε : Type} (e : ε) (f : α → Except ε β) :
    ((Except.error e : Except ε α) >>= f) = .error e := rfl

@[simp] theorem except_pure {α ε : Type} (a : α) : (pure a : Except ε α) = .ok a := rfl

/-- The selector adds 0 or 1, or fails with RoundingRequired, and that only under UNNECESSARY with a remainder. -/
theorem roundAdj_cases (rm : RoundMode) (neg odd : Bool) (cls : RemClass) :
    roundAdj rm neg odd cls = .ok 0 ∨ roundAdj rm neg odd cls = .ok 1
      ∨ (roundAdj rm neg odd cls = .error .roundingRequired ∧ rm = .unnecessary ∧ cls ≠ .zero) := by
  cases rm <;> cases neg <;> cases odd <;> cases cls <;> decide

/-- An exact remainder is never adjusted. -/
@[simp] theorem roundAdj_zero (rm : RoundMode) (neg odd : Bool) : roundAdj rm neg odd .zero = .ok 0 := rfl

/-- The class is ZERO exactly when the remainder is 0. -/
theorem classify_eq_zero (r d : Nat) : classify r d = .zero ↔ r = 0 := by
  unfold classify
  split_ifs <;> simp_all

/-- A rounded division answers a value, or fails with RoundingRequired under UNNECESSARY with a remainder. -/
theorem roundDiv_cases (n d : Int) (rm : RoundMode) :
    (∃ v, roundDiv n d rm = .ok v)
      ∨ (roundDiv n d rm = .error .roundingRequired ∧ rm = .unnecessary ∧ n.natAbs % d.natAbs ≠ 0) := by
  unfold roundDiv uDivRem
  rcases roundAdj_cases rm (negQuotient n d) (n.natAbs / d.natAbs % 2 == 1) (classify (n.natAbs % d.natAbs) d.natAbs)
    with h | h | ⟨h, hrm, hc⟩
  · exact .inl ⟨_, by simp only [h, except_ok_bind]; rfl⟩
  · exact .inl ⟨_, by simp only [h, except_ok_bind]; rfl⟩
  · exact .inr ⟨by simp only [h, except_error_bind], hrm, fun h0 => hc ((classify_eq_zero _ _).2 h0)⟩

/-- The arbiter answers the value itself when it fits, the wrapped value when UNCHECKED, else RangeOverflow. -/
theorem narrow64_cases (v : Int) (ov : OvMode) :
    (fits64 v ∧ narrow64 v ov = .ok v) ∨ (¬ fits64 v ∧ ov = .unchecked ∧ narrow64 v ov = .ok (wrap64 v))
      ∨ (¬ fits64 v ∧ ov = .checked ∧ narrow64 v ov = .error .rangeOverflow) := by
  unfold narrow64
  by_cases h : fits64 v
  · exact .inl ⟨h, if_pos h⟩
  · cases ov
    · exact .inr (.inl ⟨h, rfl, if_neg h⟩)
    · exact .inr (.inr ⟨h, rfl, if_neg h⟩)

/-- The conversions' range check answers the value when it fits, else RangeOverflow. -/
theorem narrowAlways_cases (v : Int) :
    (fits64 v ∧ narrowAlways v = .ok v) ∨ (¬ fits64 v ∧ narrowAlways v = .error .rangeOverflow) := by
  unfold narrowAlways
  by_cases h : fits64 v
  · exact .inl ⟨h, if_pos h⟩
  · exact .inr ⟨h, if_neg h⟩

/-- The count of a shift is `OPB` when at most 63, else InvalidOperand. -/
theorem shiftCount_cases (s : State) :
    (s.ub ≤ 63 ∧ s.shiftCount = .ok s.ub) ∨ (63 < s.ub ∧ s.shiftCount = .error .invalidOperand) := by
  unfold State.shiftCount
  by_cases h : s.ub > 63
  · exact .inr ⟨h, if_pos h⟩
  · exact .inl ⟨by omega, if_neg h⟩

/-- `POW` within its bound is the full loop, or the scale factor for the exponent 0. -/
theorem powValue_within (a : Int) (n sc : Nat) (rm : RoundMode) (ov : OvMode) (h : n ≤ Config.powExpMax) :
    powValue a n sc rm ov = if n = 0 then .ok (sf sc : Int) else powSteps a sc rm ov (n - 1) a :=
  if_neg (by omega)

/-- `POW` above its bound is refused in both modes. -/
theorem powValue_above (a : Int) (n sc : Nat) (rm : RoundMode) (ov : OvMode) (h : Config.powExpMax < n) :
    powValue a n sc rm ov = .error .rangeOverflow :=
  if_pos h

/-- The bound is at least 1. -/
theorem one_le_powExpMax : 1 ≤ Config.powExpMax := Nat.succ_le_succ (Nat.zero_le _)

/-- The bound is below 2^64. -/
theorem powExpMax_lt : Config.powExpMax < 2 ^ 64 := by
  have := Config.powExpExtra.isLt
  unfold Config.powExpMax
  omega

/-- `bits64` forgets a wrap. -/
@[simp] theorem bits64_wrap64 (v : Int) : bits64 (wrap64 v) = bits64 v := BitVec.ofInt_toInt

end Sys2Proof.Machine
end

