-- ==== Sys2Proof/Tests/Slice0.lean ====
section
/-! SUPPORT. Tests: ill-formed terms the check refuses, one word per command written out from spec/30_encoding.md,
one step per vector of spec/95 to 98 (the vector's name stands above it), the host lines, and for every obligation
with hypotheses a state and operands that meet them. -/

namespace Sys2Proof.Tests

-- One test at a time: many kernel evaluations at once take a thread and its stack each.
set_option Elab.async false

open Sys2Proof.Machine Sys2Proof.Safety

/-- The state after reset but for the two operands. -/
def st (a b : Word64) : State := { State.reset with opa := a, opb := b }

/-- `STATUS`, `RES` and `RESH` after the word `w` is written to `CMD` with these operands, if the step is ordinary,
stores `w` and sets exactly the flag of its failure. -/
def ran (w : Nat) (a b : Word64) : Option (Nat × Word64 × Word64) :=
  match step ((st a b).withFetchWord 32 w) with
  | .next t =>
    if t.cmd.toNat = w ∧ t.flags.toNat = 2 ^ t.status.toNat / 2 ∧ t.opa = a ∧ t.opb = b ∧ t.port = [] then
      some (t.status.toNat, t.res, t.resh)
    else none
  | .fault _ => none
  | .refused _ => none

/-! ### Well-formedness (R72) -/

theorem test_wf_scale_18 : (Instr.mul 18 .up .checked).wf = true := by decide

theorem test_wf_refuses_scale : ∀ i ∈ [Instr.smSf 19, .smMinInt 19, .smMaxInt 19, .smNlz 19, .sfMul 19, .sfDiv 19,
    .sfMod 19, .sfDivu 19, .sfMulHi 19, .sfMulLo 19, .mul 19 .up .checked, .div 19 .up .checked, .pow 19 .up .checked,
    .sqrt 19 .up, .fromInt 19, .toInt 19 .up, .fromDec 19 .up 0, .toDec 19 .up 0, .fromDbl 19 .up, .toDbl 19 .up,
    .fromFlt 19 .up, .toFlt 31 .up], i.wf = false := by decide

theorem test_wf_refuses_aux : (Instr.fromDec 0 .up 19).wf = false ∧ (Instr.toDec 0 .up 31).wf = false := by decide

/-! ### Decoding: `rsv_t_ov_rm_s_op` (R71), `op` from R76, codes from R74 and R75 -/

theorem test_decode_scale_metrics : ∀ p ∈ [
      (0b0000000000_00000_0_000_10010_00010000, Instr.smSf 18),
      (0b0000000000_00000_0_000_00111_00010001, .smMinInt 7),
      (0b0000000000_00000_0_000_01001_00010010, .smMaxInt 9),
      (0b0000000000_00000_0_000_01101_00010011, .smNlz 13),
      (0b0000000000_00000_0_000_00101_00010100, .sfMul 5),
      (0b0000000000_00000_0_000_10001_00010101, .sfDiv 17),
      (0b0000000000_00000_0_000_00001_00010110, .sfMod 1),
      (0b0000000000_00000_0_000_01011_00010111, .sfDivu 11),
      (0b0000000000_00000_0_000_00011_00011000, .sfMulHi 3),
      (0b0000000000_00000_0_000_01111_00011001, .sfMulLo 15)],
    decode p.1 = .ok p.2 := by decide +kernel

theorem test_decode_wide_primitives : ∀ p ∈ [
      (0b0000000000_00000_0_000_00000_00100000, Instr.umul128),
      (0b0000000000_00000_0_000_00000_00100001, .udiv64),
      (0b0000000000_00000_0_000_00000_00100010, .urem64)],
    decode p.1 = .ok p.2 := by decide +kernel

theorem test_decode_arithmetic : ∀ p ∈ [
      (0b0000000000_00000_1_000_00000_00110000, Instr.add .checked),
      (0b0000000000_00000_0_000_00000_00110001, .sub .unchecked),
      (0b0000000000_00000_1_000_10001_00110010, .mul 17 .up .checked),
      (0b0000000000_00000_1_101_00001_00110011, .div 1 .halfDown .checked),
      (0b0000000000_00000_0_101_00000_00110100, .avg .halfDown),
      (0b0000000000_00000_1_010_00011_00110101, .pow 3 .ceiling .checked),
      (0b0000000000_00000_0_010_01111_00110110, .sqrt 15 .ceiling),
      (0b0000000000_00000_1_000_00000_00110111, .shl .checked),
      (0b0000000000_00000_0_111_00000_00111000, .shr .unnecessary),
      (0b0000000000_00000_0_000_00000_00111001, .cmp),
      (0b0000000000_00000_0_000_00000_00111010, .isZero),
      (0b0000000000_00000_0_000_00000_00111011, .signum)],
    decode p.1 = .ok p.2 := by decide +kernel

theorem test_decode_integer_decimal : ∀ p ∈ [
      (0b0000000000_00000_0_000_10001_01000000, Instr.fromInt 17),
      (0b0000000000_00000_0_001_00001_01000001, .toInt 1 .down),
      (0b0000000000_01001_0_001_01011_01000010, .fromDec 11 .down 9),
      (0b0000000000_10010_0_100_00011_01000011, .toDec 3 .halfUp 18)],
    decode p.1 = .ok p.2 := by decide +kernel

theorem test_decode_float : ∀ p ∈ [
      (0b0000000000_00000_0_100_01111_01010000, Instr.fromDbl 15 .halfUp),
      (0b0000000000_00000_0_000_10010_01010001, .toDbl 18 .up),
      (0b0000000000_00000_0_000_00111_01010010, .fromFlt 7 .up),
      (0b0000000000_00000_0_101_01001_01010011, .toFlt 9 .halfDown)],
    decode p.1 = .ok p.2 := by decide +kernel

/-- V-ILL: the test of R72 that rejects each word. -/
theorem test_decode_illegal : ∀ p ∈ [
      (0x00000000, .unknownOperation),
      (0xFFFFFFFF, .reservedBits),
      (0x0000000F, .unknownOperation),
      (0x0000001A, .unknownOperation),
      (0x00000023, .unknownOperation),
      (0x0000003C, .unknownOperation),
      (0x00000044, .unknownOperation),
      (0x00000054, .unknownOperation),
      (0x00400032, .reservedBits),
      (0x80000039, .reservedBits),
      (0x00001332, .scaleRange),
      (0x00001F10, .scaleRange),
      (0x00000130, .deadScale),
      (0x00002030, .deadRound),
      (0x00020030, .deadAux),
      (0x00010034, .deadOverflow),
      (0x00010039, .deadOverflow),
      (0x00002014, .deadRound),
      (0x00010036, .deadOverflow),
      (0x00010043, .deadOverflow),
      (0x00260242, .auxRange),
      (0x00021241, .deadAux),
      (0x00010050, .deadOverflow)],
    decode p.1 = .error p.2 := by decide +kernel

/-- R81's examples, assembled: an omitted `rm` is HALF_UP, an omitted `ov` UNCHECKED, a dead or missing scale is
refused. -/
theorem test_assemble :
    (assemble ⟨0x32, some .halfUp, some .checked, some 2, none⟩).map encode = some 0x00018232
    ∧ (assemble ⟨0x32, none, none, some 2, none⟩).map encode = some 0x00008232
    ∧ (assemble ⟨0x30, none, some .checked, none, none⟩).map encode = some 0x00010030
    ∧ (assemble ⟨0x43, some .down, none, some 6, some 2⟩).map encode = some 0x00042643
    ∧ (assemble ⟨0x39, none, none, none, none⟩).map encode = some 0x00000039
    ∧ assemble ⟨0x32, none, none, none, none⟩ = none ∧ assemble ⟨0x39, none, none, some 0, none⟩ = none := by
  decide +kernel

/-- R82: the pseudo-instructions. -/
theorem test_host_lines :
    programEvents [.lda (-5), .ldw (-1), .clrf 5, .command .cmp]
      = some [.write 0 0xFFFFFFFFFFFFFFFB, .write 0 0xFFFFFFFFFFFFFFFF, .write 1 0xFFFFFFFFFFFFFFFF, .write 6 5,
        .write 4 0x39] := by decide +kernel

/-- R7, R280, U12, R81: beyond the carrier, or above scale 18, a line stands for nothing, and so does its program. -/
theorem test_host_lines_refused :
    (∀ l ∈ [HostLine.ldw (2 ^ 127), .ldw (-2 ^ 127 - 1), .ldw (2 ^ 128), .command (.mul 32 .up .unchecked),
      .command (.fromDec 0 .up 32768)], l.events = none ∧ programEvents [.lda 1, l] = none)
    ∧ HostLine.events (.ldw (-2 ^ 127)) = some [.write 0 0, .write 1 0x8000000000000000] := by decide +kernel

/-! ### One step per vector -/

/-- V-SM-19, V-SM-2, V-SM-18: word, `OPA`, `OPB`, and then `STATUS`, `RES`, `RESH`. -/
theorem test_step_table_reads : ∀ p ∈ [
      (0x00001210, 0x7B, 0x1C8, 0, 0xDE0B6B3A7640000, 0x0),
      (0x00001211, 0x7B, 0x1C8, 0, 0xFFFFFFFFFFFFFFF7, 0x0),
      (0x00000112, 0x7B, 0x1C8, 0, 0xCCCCCCCCCCCCCCC, 0x0),
      (0x00001113, 0x7B, 0x1C8, 0, 0x7, 0x0)],
    ran p.1 p.2.1 p.2.2.1 = some p.2.2.2 := by decide +kernel

/-- V-SF-5, V-SF-3, V-SF-9, V-SF-15, V-SF-10, V-SF-16, V-SFU-1, V-SFU-2, V-SFH-2, V-SFH-3: word, `OPA`, `OPB`, and
then `STATUS`, `RES`, `RESH`. -/
theorem test_step_scale_factor : ∀ p ∈ [
      (0x00000914, 0xFFFFFFFFFFFFFFFF, 0x4D, 0, 0xFFFFFFFFC4653600, 0x0),
      (0x00001214, 0x7FFFFFFFFFFFFFFF, 0x4D, 0, 0xF21F494C589C0000, 0x0),
      (0x00000215, 0xFFFFFFFFFFFFFF06, 0x4D, 0, 0xFFFFFFFFFFFFFFFE, 0x0),
      (0x00001215, 0x8000000000000000, 0x4D, 0, 0xFFFFFFFFFFFFFFF7, 0x0),
      (0x00000216, 0xFFFFFFFFFFFFFF06, 0x4D, 0, 0xFFFFFFFFFFFFFFCE, 0x0),
      (0x00001216, 0x8000000000000000, 0x4D, 0, 0xFCE66C50E2840000, 0x0),
      (0x00000117, 0xFFFFFFFFFFFFFFFF, 0x4D, 0, 0x1999999999999999, 0x0),
      (0x00001217, 0x8000000000000000, 0x4D, 0, 0x9, 0x0),
      (0x00000C18, 0xDEADBEEF12345678, 0x4D, 0, 0x108E8D713A, 0x0),
      (0x00001218, 0xFFFFFFFF, 0x4D, 0, 0xDE0B6B39983494C, 0x0),
      (0x00000C19, 0xDEADBEEF12345678, 0x4D, 0, 0x60BF8000, 0x0),
      (0x00001219, 0xFFFFFFFF, 0x4D, 0, 0x589C0000, 0x0)],
    ran p.1 p.2.1 p.2.2.1 = some p.2.2.2 := by decide +kernel

/-- V-UMUL-2, V-UMUL-4, V-UDIV-1, V-UDIV-7, V-UDIV-9: word, `OPA`, `OPB`, and then `STATUS`, `RES`, `RESH`. -/
theorem test_step_wide_primitives : ∀ p ∈ [
      (0x00000020, 0xFFFFFFFFFFFFFFFF, 0xFFFFFFFFFFFFFFFF, 0, 0x1, 0xFFFFFFFFFFFFFFFE),
      (0x00000020, 0x7CE66C50E2840000, 0x7CE66C50E2840000, 0, 0xBAED541000000000, 0x3CF008552A9B3DDD),
      (0x00000021, 0x8000000000000000, 0xA, 0, 0xCCCCCCCCCCCCCCC, 0x0),
      (0x00000021, 0x7, 0x0, 3, 0x0, 0x0),
      (0x00000022, 0xFFFFFFFFFFFFFFFF, 0x8000000000000000, 0, 0x7FFFFFFFFFFFFFFF, 0x0),
      (0x00000022, 0x7, 0x0, 3, 0x0, 0x0)],
    ran p.1 p.2.1 p.2.2.1 = some p.2.2.2 := by decide +kernel

/-- V-ADD-3, V-ADD-9, V-ADD-10, V-AVG-6, V-AVG-2, V-SHL-4, V-SHL-5, V-SHR-5, V-SHR-9, V-CMP-4, V-CMP-1, V-CMP-7:
word, `OPA`, `OPB`, and then `STATUS`, `RES`, `RESH`. -/
theorem test_step_scale_free : ∀ p ∈ [
      (0x00000030, 0x8000000000000000, 0xFFFFFFFFFFFFFFFF, 0, 0x7FFFFFFFFFFFFFFF, 0x0),
      (0x00010030, 0x8000000000000000, 0xFFFFFFFFFFFFFFFF, 1, 0x0, 0x0),
      (0x00000031, 0x96, 0xFA, 0, 0xFFFFFFFFFFFFFF9C, 0x0),
      (0x00010031, 0x0, 0x8000000000000000, 1, 0x0, 0x0),
      (0x0000C034, 0x8000000000000000, 0x8000000000000001, 0, 0x8000000000000000, 0x0),
      (0x0000E034, 0xFA, 0x97, 2, 0x0, 0x0),
      (0x00010037, 0xFFFFFFFFFFFFFFFF, 0x3F, 0, 0x8000000000000000, 0x0),
      (0x00000037, 0xFFFFFFFFFFFFFFFF, 0x40, 3, 0x0, 0x0),
      (0x0000C038, 0xFFFFFFFFFFFFFF06, 0x2, 0, 0xFFFFFFFFFFFFFFC2, 0x0),
      (0x0000E038, 0x7FFFFFFFFFFFFFFF, 0x3F, 2, 0x0, 0x0),
      (0x00000039, 0x8000000000000000, 0x7FFFFFFFFFFFFFFF, 0, 0xFFFFFFFFFFFFFFFF, 0x0),
      (0x00000039, 0xFA, 0x96, 0, 0x1, 0x0),
      (0x0000003A, 0x0, 0x0, 0, 0x1, 0x0),
      (0x0000003A, 0x8000000000000000, 0x7FFFFFFFFFFFFFFF, 0, 0x0, 0x0),
      (0x0000003B, 0x8000000000000000, 0x7FFFFFFFFFFFFFFF, 0, 0xFFFFFFFFFFFFFFFF, 0x0),
      (0x0000003B, 0xFA, 0x96, 0, 0x1, 0x0)],
    ran p.1 p.2.1 p.2.2.1 = some p.2.2.2 := by decide +kernel

/-- V-MUL-3, V-MUL-21, V-RND-55, V-DIV-21, V-SQRT-2, V-SQRT-18: word, `OPA`, `OPB`, and then `STATUS`, `RES`,
`RESH`. -/
theorem test_step_scaled : ∀ p ∈ [
      (0x00016232, 0x69, 0x96, 0, 0x9D, 0x0),
      (0x00013232, 0x29A2241AF62C0000, 0x2AAAAAAAAAAAAAAB, 1, 0x0, 0x0),
      (0x00018033, 0xFFFFFFFFFFFFFFE7, 0xA, 0, 0xFFFFFFFFFFFFFFFD, 0x0),
      (0x0001F233, 0x7FFFFFFFFFFFFFFF, 0x3, 2, 0x0, 0x0),
      (0x0000C236, 0x12C, 0x63, 0, 0xAD, 0x0),
      (0x0000C036, 0xFFFFFFFFFFFFFFFF, 0x63, 3, 0x0, 0x0)],
    ran p.1 p.2.1 p.2.2.1 = some p.2.2.2 := by decide +kernel

/-- V-FINT-13, V-FINT-16, V-TINT-6, V-TINT-9, V-FDEC-3, V-FDEC-15, V-TDEC-6, V-TDEC-8: word, `OPA`, `OPB`, and then
`STATUS`, `RES`, `RESH`. -/
theorem test_step_integer_decimal : ∀ p ∈ [
      (0x00000240, 0xFEB851EB851EB852, 0xFFFFFFFFFFFFFFFF, 0, 0x8000000000000008, 0x0),
      (0x00000040, 0xFFFFFFFFFFFFFFFF, 0x7FFFFFFFFFFFFFFF, 1, 0x0, 0x0),
      (0x00006241, 0xFFFFFFFFFFFFFFFF, 0x63, 0, 0xFFFFFFFFFFFFFFFF, 0x0),
      (0x0000F241, 0x7FFFFFFFFFFFFFFF, 0x63, 2, 0x0, 0x0),
      (0x00080242, 0x2FDA, 0x0, 0, 0x7B, 0x0),
      (0x00242342, 0xFFFFFFFFFFFFFFFF, 0x7FFFFFFFFFFFFFFF, 1, 0x0, 0x0),
      (0x0024E043, 0x8000000000000000, 0x5, 0, 0x0, 0xF90FA4A62C4E0000),
      (0x0004E643, 0x2FEFD8, 0x5, 2, 0x0, 0x0)],
    ran p.1 p.2.1 p.2.2.1 = some p.2.2.2 := by decide +kernel

/-- V-DBL-35, V-DBL-15, V-TDBL-16, V-TDBL-6, V-FLT-14, V-FLT-16, V-TFLT-5, V-TFLT-16: word, `OPA`, `OPB`, and then
`STATUS`, `RES`, `RESH`. -/
theorem test_step_float : ∀ p ∈ [
      (0x0000AF50, 0x3FEFFFFFFFFFFFFF, 0x63, 0, 0x38D7EA4C68000, 0x0),
      (0x00000050, 0x7FF8000000000000, 0x63, 3, 0x0, 0x0),
      (0x00004051, 0x20000000000003, 0x63, 0, 0x4340000000000002, 0x0),
      (0x00000151, 0x1, 0x63, 0, 0x3FB999999999999A, 0x0),
      (0x0000C252, 0xC0200000, 0x63, 0, 0xFFFFFFFFFFFFFF06, 0x0),
      (0x00000052, 0x5F000000, 0x63, 1, 0x0, 0x0),
      (0x00000153, 0xFFFFFFFFFFFFFFFF, 0x63, 0, 0xBDCCCCCD, 0x0),
      (0x0000E353, 0x1, 0x63, 2, 0x0, 0x0)],
    ran p.1 p.2.1 p.2.2.1 = some p.2.2.2 := by decide +kernel

/-- V-POW-1: 1.50^3 at scale 2 is 3.38, step by step. -/
theorem test_step_pow_1 (h : Config.powExpMax = 1023) :
    exec (.pow 2 .halfUp .checked) (st 150 3) = .next ((st 150 3).succeed 338) := by
  have hp : powValue 150 3 2 .halfUp .checked = .ok 338 := by
    rw [powValue_within _ _ _ _ _ (by omega)]
    decide +kernel
  show (st 150 3).finish (do return bits64 (← powValue 150 3 2 .halfUp .checked)) = _
  rw [hp]
  rfl

/-- V-POW-15: an exponent above the bound fails in UNCHECKED mode too. -/
theorem test_step_pow_2 (h : Config.powExpMax = 1023) :
    exec (.pow 6 .halfUp .unchecked) (st 1000000 1024) = .next ((st 1000000 1024).fail .rangeOverflow) := by
  have hp : powValue 1000000 1024 6 .halfUp .unchecked = .error .rangeOverflow :=
    powValue_above _ _ _ _ _ (by omega)
  show (st 1000000 1024).finish (do return bits64 (← powValue 1000000 1024 6 .halfUp .unchecked)) = _
  rw [hp]
  rfl

/-- R28, R52, program 2 steps 18 and 19: a write to `FLAGS` clears the bits written as 1, and never a reserved one. -/
theorem test_clear_flags : clearFlags 0xF 0x5 = 0xA ∧ clearFlags 0xA 0xFFFFFFF0 = 0xA := by decide

/-! ### Witnesses: for each obligation with hypotheses, a state and operands that meet them -/

/-- Every mode but UNNECESSARY rounds anything. -/
theorem determined_of_ne (rm : RoundMode) (x : ℚ) (h : rm ≠ .unnecessary) : Determined rm x := .inl h

/-- A fraction that does not divide is undetermined under UNNECESSARY. -/
theorem not_determined (n d : Int) (hd : d ≠ 0) (h : n % d ≠ 0) : ¬ Determined .unnecessary ((n : ℚ) / d) := by
  rintro (h' | ⟨k, hk⟩)
  · exact h' rfl
  · have hq : (d : ℚ) ≠ 0 := by exact_mod_cast hd
    rw [div_eq_iff hq] at hk
    have hz : n = k * d := by exact_mod_cast hk
    exact h (by rw [hz]; exact Int.mul_emod_left k d)

theorem witness_EncodeThenDecodeIsIdentity : (Instr.fromDec 18 .unnecessary 18).wf = true := by decide

theorem witness_LegalWordsAreCanonical : decode 0x0024F242 = .ok (.fromDec 18 .unnecessary 18) := by decide +kernel

theorem witness_LegalWordsMatchTheOpcodeMap :
    decode 0x0024F242 = .ok (.fromDec 18 .unnecessary 18) ∧ (opcodeRow (.fromDec 0 .up 0)).Accepts 0x0024F242 :=
  ⟨by decide +kernel, by decide, fun _ => by decide, fun _ => by decide⟩

/-- A state about to take one event. -/
def atPort (e : PortEvent) : State := { st 250 150 with port := [e] }

/-- The operands of a zero divisor, with a legal record that is not all zero. -/
def marked : State := { st 7 0 with status := 4, flags := 15, res := 5, resh := 6 }

theorem witness_StepRunsTheDecodedCommand :
    (atPort (.write 4 0x10030)).port = .write 4 0x10030 :: [] ∧ decode ((0x10030 : Word64).setWidth 32) = .ok (.add .checked) :=
  ⟨rfl, by decide +kernel⟩

theorem witness_IllegalWordsAreOnlyRecorded : decode ((0x1332 : Word64).setWidth 32) = .error .scaleRange := by
  decide +kernel

theorem witness_HostTransactionsOnRegisters :
    (31 : Nat) < 32 ∧ (7 : BitVec 3) ∈ [(2 : BitVec 3), 3, 5, 7]
    ∧ ((7 : BitVec 3), (0 : Word64)) ∈ [((0 : BitVec 3), marked.opa), (1, marked.opb), (2, marked.res), (3, marked.resh),
      (4, marked.cmd.setWidth 64), (5, marked.status.setWidth 64), (6, marked.flags.setWidth 64), (7, 0)] := by
  decide

theorem witness_StepTakesExactlyOneEvent :
    (st 1 2).port = [] ∧ (atPort (.read 2)).port = .read 2 :: []
    ∧ step (atPort (.read 2)) = .next { atPort (.read 2) with port := [], returned := [0] } := ⟨rfl, rfl, rfl⟩

theorem witness_StepKeepsTheRecordLegal :
    LegalRecord marked ∧ LegalRecord { marked with port := [.write 4 0x22] }
    ∧ step { marked with port := [.write 4 0x22] } = .next ({ marked with cmd := 0x22 }.fail .invalidOperand) :=
  ⟨by decide, by decide, rfl⟩

theorem witness_FailuresArePrecise :
    (∃ t, step { marked with port := .write 4 0x22 :: [] } = .next t ∧ t.status.toNat % 8 ≠ 0)
    ∧ ∃ t, step { marked with port := .write 4 0x30 :: [] } = .next t ∧ t.status.toNat % 8 = 0 :=
  ⟨⟨_, rfl, by decide⟩, ⟨_, rfl, by decide⟩⟩

theorem witness_OutcomeDependsOnlyOnWordAndOperands :
    (st 7 0).opa = marked.opa ∧ (st 7 0).opb = marked.opb
    ∧ (∃ t, exec .umul128 (st 7 0) = .next t ∧ t.status.toNat % 8 = 0) ∧ ∃ t, exec .umul128 marked = .next t :=
  ⟨rfl, rfl, ⟨_, rfl, by decide⟩, ⟨_, rfl⟩⟩

theorem witness_UnreadOperandBitsHaveNoEffect :
    ignoresOpb (.toDec 18 .up 0) = true ∧ Instr.fromFlt 2 .up ∈ [.sfMulHi 2, .sfMulLo 2, .fromFlt 2 .up]
    ∧ (0xDEADBEEF12345678 : Word64).toNat % 2 ^ 32 = (st 0x12345678 0).opa.toNat % 2 ^ 32
    ∧ Instr.smNlz 18 ∈ [.smSf 18, .smMinInt 18, .smMaxInt 18, .smNlz 18] := by decide

theorem witness_OnlyWideCommandsWriteResh :
    ∃ t, step { st 0xFFFFFFFFFFFFFFFF 2 with port := .write 4 0x20 :: [] } = .next t
      ∧ t.resh ≠ (st 0xFFFFFFFFFFFFFFFF 2).resh := ⟨_, rfl, by decide⟩

/-- One command of each row of R406 that names the operands of `InvalidOperand`, and one that rounds. -/
theorem witness_CommandsRaiseOnlyTheirListedFailures :
    ∀ p ∈ [(Instr.udiv64, st 1 0, codeInvalidOperand), (.div 0 .up .checked, st 1 0, codeInvalidOperand),
        (.shl .checked, st 1 64, codeInvalidOperand), (.shr .up, st 1 64, codeInvalidOperand),
        (.sqrt 0 .up, st 0xFFFFFFFFFFFFFFFF 0, codeInvalidOperand),
        (.fromDbl 0 .up, st 0x7FF0000000000000 0, codeInvalidOperand), (.fromFlt 0 .up, st 0x7FC00000 0, codeInvalidOperand),
        (.toInt 1 .unnecessary, st 1 0, codeRoundingRequired), (.add .checked, st 0x7FFFFFFFFFFFFFFF 1, codeRangeOverflow)],
      ∃ t, exec p.1 p.2.1 = .next t ∧ t.status.toNat % 8 = p.2.2 := by
  simp only [List.forall_mem_cons]
  exact ⟨⟨_, rfl, by decide +kernel⟩, ⟨_, rfl, by decide +kernel⟩, ⟨_, rfl, by decide +kernel⟩,
    ⟨_, rfl, by decide +kernel⟩, ⟨_, rfl, by decide +kernel⟩, ⟨_, rfl, by decide +kernel⟩,
    ⟨_, rfl, by decide +kernel⟩, ⟨_, rfl, by decide +kernel⟩, ⟨_, rfl, by decide +kernel⟩, fun _ h => nomatch h⟩

theorem witness_ReissuedCommandChangesNothingMore :
    exec .urem64 marked = .next (marked.fail .invalidOperand) := rfl

/-- Both clauses: a sum that fits, and an integer out of range. -/
theorem witness_UncheckedDiffersOnlyOnRangeOverflow :
    (∃ t, exec (withOverflow .checked (.add .checked)) (st 250 150) = .next t ∧ t.status.toNat % 8 ≠ codeRangeOverflow)
    ∧ ∃ t, exec (withOverflow .unchecked (.fromInt 0)) (st 0 1) = .next t ∧ t.status.toNat % 8 = codeRangeOverflow :=
  ⟨⟨_, rfl, by decide +kernel⟩, ⟨_, rfl, by decide +kernel⟩⟩

theorem witness_RoundedDivisionFacts :
    (-3 : Int) ≠ 0 ∧ (-3 : Int) ∣ 6 ∧ roundDiv 7 (-3) .halfEven = .ok (-2)
    ∧ RoundMode.halfEven ∈ [RoundMode.up, .down, .halfUp, .halfDown, .halfEven] := by decide +kernel

theorem witness_RoundedDivisionIsTheModesRounding :
    (10 : Int) ≠ 0 ∧ RoundsTo .halfEven (((25 : Int) : ℚ) / (10 : Int)) 2
    ∧ ¬ Determined .unnecessary (((25 : Int) : ℚ) / (10 : Int)) :=
  ⟨by decide, by norm_num [RoundsTo, abs_of_pos], not_determined 25 10 (by decide) (by decide)⟩

/-- Both sides of each end of the range. -/
theorem witness_OverflowArbiterFitsChecksOrWraps :
    (-2 ^ 63 ≤ (-2 ^ 63 : Int) ∧ (-2 ^ 63 : Int) ≤ 2 ^ 63 - 1) ∧ (-2 ^ 63 ≤ (2 ^ 63 - 1 : Int) ∧ (2 ^ 63 - 1 : Int) ≤ 2 ^ 63 - 1)
    ∧ ¬ (-2 ^ 63 ≤ (2 ^ 63 : Int) ∧ (2 ^ 63 : Int) ≤ 2 ^ 63 - 1)
    ∧ ¬ (-2 ^ 63 ≤ (-2 ^ 63 - 1 : Int) ∧ (-2 ^ 63 - 1 : Int) ≤ 2 ^ 63 - 1) := by decide

theorem witness_WideMultiplyListingIsExact : 2 ^ 64 - 1 < 2 ^ 64 ∧ uMul128 (2 ^ 64 - 1) (2 ^ 64 - 1) = (2 ^ 64 - 2, 1) := by
  decide +kernel

theorem witness_ScaleMultiplierListingIsExact :
    2 ^ 64 - 1 < 2 ^ 64 ∧ -2 ^ 63 ≤ (-2 ^ 63 : Int) ∧ (-2 ^ 63 : Int) < 2 ^ 63 := by decide

theorem witness_MetricsBoundsAreTheRepresentableIntegers :
    18 ≤ 18 ∧ (metrics 18).minInt ≤ -9 ∧ (-9 : Int) ≤ (metrics 18).maxInt ∧ ¬ (-10 : Int) ≥ (metrics 18).minInt := by
  decide +kernel

theorem witness_TableReadsGiveTheRow : 18 ≤ 18 ∧ exec (.smNlz 18) (st 1 2) = .next ((st 1 2).succeed 4) :=
  ⟨by decide, by rfl⟩

theorem witness_HalfWordProductsRebuildExactly :
    18 ≤ 18 ∧ exec (.sfMulLo 18) (st 0xFFFFFFFF 0) = .next ((st 0xFFFFFFFF 0).succeed 0x589C0000) :=
  ⟨by decide, by rfl⟩

theorem witness_UnsignedDivideAndRemainder : (st 7 1).opb ≠ 0 ∧ (st 7 0).opb = 0 := by decide

theorem witness_AddAndSubtractFollowTheOverflowPolicy :
    (Instr.add .checked, (9223372036854775807 : Int)) ∈ [(.add .checked, (st 0x7FFFFFFFFFFFFFFE 1).opa.toInt
      + (st 0x7FFFFFFFFFFFFFFE 1).opb.toInt), (.sub .checked, (st 0x7FFFFFFFFFFFFFFE 1).opa.toInt
      - (st 0x7FFFFFFFFFFFFFFE 1).opb.toInt)] ∧ fits64 9223372036854775807
    ∧ (Instr.sub .checked, (9223372036854775808 : Int)) ∈ [(.add .checked, (st 0x7FFFFFFFFFFFFFFF (-1)).opa.toInt
      + (st 0x7FFFFFFFFFFFFFFF (-1)).opb.toInt), (.sub .checked, (st 0x7FFFFFFFFFFFFFFF (-1)).opa.toInt
      - (st 0x7FFFFFFFFFFFFFFF (-1)).opb.toInt)] ∧ ¬ fits64 9223372036854775808 := by decide +kernel

/-- The operand values of a test state as rationals. -/
theorem st_opa_toInt (a b : Word64) : (st a b).opa.toInt = a.toInt := rfl

theorem st_opb_toInt (a b : Word64) : (st a b).opb.toInt = b.toInt := rfl

theorem witness_AverageRoundsTheExactHalfSum :
    Determined .halfUp ((((st 250 151).opa.toInt : ℚ) + (st 250 151).opb.toInt) / 2)
    ∧ ¬ Determined .unnecessary ((((st 250 151).opa.toInt : ℚ) + (st 250 151).opb.toInt) / 2) := by
  have e0 : (st 250 151).opa.toInt = 250 := by decide
  have e1 : (st 250 151).opb.toInt = 151 := by decide
  refine ⟨determined_of_ne _ _ (by decide), ?_⟩
  have h := not_determined 401 2 (by decide) (by decide)
  norm_num [e0, e1] at h ⊢
  exact h

/-- The counts 63 and 64, a product at each end of the range. -/
theorem witness_ShiftLeftMultipliesByAPowerOfTwo :
    (st (-1) 63).opb.toNat ≤ 63 ∧ fits64 ((st (-1) 63).opa.toInt * 2 ^ (st (-1) 63).opb.toNat)
    ∧ (st 1 63).opb.toNat ≤ 63 ∧ ¬ fits64 ((st 1 63).opa.toInt * 2 ^ (st 1 63).opb.toNat)
    ∧ 63 < (st 1 64).opb.toNat := by decide +kernel

theorem witness_ShiftRightRoundsByTheMode :
    (st 1 63).opb.toNat ≤ 63 ∧ Determined .floor (((st 1 63).opa.toInt : ℚ) / 2 ^ (st 1 63).opb.toNat)
    ∧ ¬ Determined .unnecessary (((st 1 1).opa.toInt : ℚ) / 2 ^ (st 1 1).opb.toNat) ∧ 63 < (st 1 64).opb.toNat := by
  have e0 : (st 1 63).opb.toNat = 63 := by decide
  have e1 : (st 1 63).opa.toInt = 1 := by decide
  have e2 : (st 1 1).opa.toInt = 1 := by decide
  have e3 : (st 1 1).opb.toNat = 1 := by decide
  have e4 : (st 1 64).opb.toNat = 64 := by decide
  refine ⟨by decide, determined_of_ne _ _ (by decide), ?_, by decide⟩
  have h := not_determined 1 2 (by decide) (by decide)
  norm_num [e0, e1, e2, e3, e4] at h ⊢
  exact h

/-- 1.50 × 2.50 fits; 3 × 10^18 × 4 at scale 0 does not; 0.01 × 0.01 is not exact. -/
theorem witness_MultiplyRoundsThenNarrows :
    (Determined .halfUp (((st 250 150).opa.toInt : ℚ) * (st 250 150).opb.toInt / 10 ^ 2)
      ∧ RoundsTo .halfUp (((st 250 150).opa.toInt : ℚ) * (st 250 150).opb.toInt / 10 ^ 2) 375 ∧ fits64 375)
    ∧ (Determined .up (((st 3000000000000000000 4).opa.toInt : ℚ) * (st 3000000000000000000 4).opb.toInt / 10 ^ 0)
      ∧ RoundsTo .up (((st 3000000000000000000 4).opa.toInt : ℚ) * (st 3000000000000000000 4).opb.toInt / 10 ^ 0)
        12000000000000000000 ∧ ¬ fits64 12000000000000000000)
    ∧ ¬ Determined .unnecessary (((st 1 1).opa.toInt : ℚ) * (st 1 1).opb.toInt / 10 ^ 2) := by
  have e0 : (st 250 150).opa.toInt = 250 := by decide
  have e1 : (st 250 150).opb.toInt = 150 := by decide
  have e2 : (st 3000000000000000000 4).opa.toInt = 3000000000000000000 := by decide
  have e3 : (st 3000000000000000000 4).opb.toInt = 4 := by decide
  have e4 : (st 1 1).opa.toInt = 1 := by decide
  have e5 : (st 1 1).opb.toInt = 1 := by decide
  refine ⟨⟨determined_of_ne _ _ (by decide), ?_, by decide⟩, ⟨determined_of_ne _ _ (by decide), ?_, by decide⟩, ?_⟩
  · norm_num [RoundsTo, e0, e1, e2, e3, e4, e5]
  · norm_num [RoundsTo, e0, e1, e2, e3, e4, e5]
  · have h := not_determined 1 100 (by decide) (by decide)
    norm_num [e0, e1, e2, e3, e4, e5] at h ⊢
    exact h

/-- 2.50 / 0.50 fits; the largest value over 0.01 does not; 2.50 / 0.03 is not exact. -/
theorem witness_DivideRoundsThenNarrows :
    ((st 250 50).opb ≠ 0 ∧ Determined .down (((st 250 50).opa.toInt : ℚ) * 10 ^ 2 / (st 250 50).opb.toInt)
      ∧ RoundsTo .down (((st 250 50).opa.toInt : ℚ) * 10 ^ 2 / (st 250 50).opb.toInt) 500 ∧ fits64 500)
    ∧ (RoundsTo .ceiling (((st 9223372036854775807 1).opa.toInt : ℚ) * 10 ^ 2 / (st 9223372036854775807 1).opb.toInt)
        922337203685477580700 ∧ ¬ fits64 922337203685477580700)
    ∧ ((st 250 3).opb ≠ 0 ∧ ¬ Determined .unnecessary (((st 250 3).opa.toInt : ℚ) * 10 ^ 2 / (st 250 3).opb.toInt)) := by
  have e0 : (st 250 50).opa.toInt = 250 := by decide
  have e1 : (st 250 50).opb.toInt = 50 := by decide
  have e2 : (st 9223372036854775807 1).opa.toInt = 9223372036854775807 := by decide
  have e3 : (st 9223372036854775807 1).opb.toInt = 1 := by decide
  have e4 : (st 250 3).opa.toInt = 250 := by decide
  have e5 : (st 250 3).opb.toInt = 3 := by decide
  refine ⟨⟨by decide, determined_of_ne _ _ (by decide), ?_, by decide⟩, ⟨?_, by decide⟩, by decide, ?_⟩
  · norm_num [RoundsTo, e0, e1, e2, e3, e4, e5]
  · norm_num [RoundsTo, e0, e1, e2, e3, e4, e5]
  · have h := not_determined 25000 3 (by decide) (by decide)
    norm_num [e0, e1, e2, e3, e4, e5] at h ⊢
    exact h

theorem witness_DivisionByZeroIsNeverSuppressed : marked.opb = 0 := rfl

/-- The exponents 0 and 1 are within every bound; 1024 is above the reference bound. -/
theorem witness_PowerOfSmallAndExcessiveExponents (h : Config.powExpMax = 1023) :
    (st 5 0).opb.toNat = 0 ∧ (st 5 1).opb.toNat = 1 ∧ Config.powExpMax < (st 5 1024).opb.toNat :=
  ⟨rfl, rfl, by rw [h]; decide⟩

/-- Below, at and above the reference bound, with a power that succeeds and one that has failed. -/
theorem witness_PowerIsRepeatedMultiplication (h : Config.powExpMax = 1023) :
    1 ≤ 1023 ∧ 1023 + 1 < 2 ^ 64 ∧ Config.powExpMax < 1023 + 1 ∧ 2 + 1 ≤ Config.powExpMax
    ∧ powValue 1000000000000 2 0 .up .checked = .error .rangeOverflow ∧ powValue 150 2 2 .halfUp .checked = .ok 225 := by
  refine ⟨by omega, by omega, by omega, by omega, ?_, ?_⟩
  · rw [powValue_within _ _ _ _ _ (by omega)]
    decide +kernel
  · rw [powValue_within _ _ _ _ _ (by omega)]
    decide +kernel

theorem witness_UncheckedIntegerPowerWrapsOnce : (st 5 1).opb.toNat ≤ Config.powExpMax := one_le_powExpMax

/-- 2 is no square, 4 is one; −1 is negative; the scale 18 with the largest value. -/
theorem witness_SquareRootRoundsByTheMode :
    18 ≤ 18 ∧ 0 ≤ (st 0x7FFFFFFFFFFFFFFF 0).opa.toInt ∧ IsSquare ((st 4 0).opa.toNat * 10 ^ 0)
    ∧ ¬ IsSquare ((st 2 0).opa.toNat * 10 ^ 0) ∧ (st (-1) 0).opa.toInt < 0 := by
  refine ⟨by decide, by decide, ⟨2, by decide⟩, ?_, by decide⟩
  have h2 : (st 2 0).opa.toNat * 10 ^ 0 = 2 := by decide
  rw [h2]
  rintro ⟨r, hr⟩
  obtain h | h := Nat.lt_or_ge r 2
  · interval_cases r <;> omega
  · nlinarith

/-- −9 and −10 at scale 18. -/
theorem witness_FromIntChecksTheIntegerBounds :
    18 ≤ 18 ∧ ((metrics 18).minInt ≤ ((st (-9) (-1)).opb ++ (st (-9) (-1)).opa).toInt
      ∧ ((st (-9) (-1)).opb ++ (st (-9) (-1)).opa).toInt ≤ (metrics 18).maxInt)
    ∧ ¬ ((metrics 18).minInt ≤ ((st (-10) (-1)).opb ++ (st (-10) (-1)).opa).toInt
      ∧ ((st (-10) (-1)).opb ++ (st (-10) (-1)).opa).toInt ≤ (metrics 18).maxInt) := by decide +kernel

theorem witness_ToIntRoundsAndAlwaysFits :
    Determined .halfEven (((st 250 0).opa.toInt : ℚ) / 10 ^ 2)
    ∧ ¬ Determined .unnecessary (((st 250 0).opa.toInt : ℚ) / 10 ^ 2) := by
  have e0 : (st 250 0).opa.toInt = 250 := by decide
  refine ⟨determined_of_ne _ _ (by decide), ?_⟩
  have h := not_determined 250 100 (by decide) (by decide)
  norm_num [e0] at h ⊢
  exact h

/-- 123 of scale 4 goes to scale 2; 2^64 does not fit; 123 of scale 4 is not exact at scale 2. -/
theorem witness_FromDecRescalesThenChecks :
    (Determined .up ((((st 123 0).opb ++ (st 123 0).opa).toInt : ℚ) * 10 ^ 2 / 10 ^ 4)
      ∧ RoundsTo .up ((((st 123 0).opb ++ (st 123 0).opa).toInt : ℚ) * 10 ^ 2 / 10 ^ 4) 2 ∧ fits64 2)
    ∧ (RoundsTo .up ((((st 0 1).opb ++ (st 0 1).opa).toInt : ℚ) * 10 ^ 0 / 10 ^ 0) 18446744073709551616
      ∧ ¬ fits64 18446744073709551616)
    ∧ ¬ Determined .unnecessary ((((st 123 0).opb ++ (st 123 0).opa).toInt : ℚ) * 10 ^ 2 / 10 ^ 4) := by
  have h1 : ((st 123 0).opb ++ (st 123 0).opa).toInt = 123 := by decide +kernel
  have h2 : ((st 0 1).opb ++ (st 0 1).opa).toInt = 18446744073709551616 := by decide +kernel
  refine ⟨⟨determined_of_ne _ _ (by decide), ?_, by decide⟩, ⟨?_, by decide⟩, ?_⟩
  · rw [h1]
    norm_num [RoundsTo, abs_of_pos]
  · rw [h2]
    norm_num [RoundsTo, abs_of_pos]
  · rw [h1]
    have h := not_determined 123 100 (by decide) (by decide)
    norm_num at h ⊢
    exact h

theorem witness_ToDecGivesTheWideResult :
    18 ≤ 18 ∧ Determined .down (((st 31415 0).opa.toInt : ℚ) * 10 ^ 2 / 10 ^ 4)
    ∧ ¬ Determined .unnecessary (((st 31415 0).opa.toInt : ℚ) * 10 ^ 2 / 10 ^ 4) := by
  have e0 : (st 31415 0).opa.toInt = 31415 := by decide
  refine ⟨by decide, determined_of_ne _ _ (by decide), ?_⟩
  have h := not_determined 31415 100 (by decide) (by decide)
  norm_num [e0] at h ⊢
  exact h

theorem witness_DecimalRoundTripIsExact : 18 ≤ 18 ∧ 0 ≤ 18 ∧ (18 : Nat) = 18 := by decide

/-- 1.0 is finite and exact; 2^63 does not fit; half of the smallest step is not exact; an infinity and the largest
finite pattern. -/
theorem witness_FromDoubleRoundsTheExactValue :
    ¬ FinitePattern 11 52 (st 0x7FF0000000000000 0).opa.toNat ∧ FinitePattern 11 52 (st 0x7FEFFFFFFFFFFFFF 0).opa.toNat
    ∧ FinitePattern 11 52 (st 0x3FF0000000000000 0).opa.toNat
    ∧ (RoundsTo .up (patternValue 11 52 (st 0x3FF0000000000000 0).opa.toNat * 10 ^ 2) 100 ∧ fits64 100)
    ∧ (RoundsTo .up (patternValue 11 52 (st 0x43E0000000000000 0).opa.toNat * 10 ^ 0) 9223372036854775808
      ∧ ¬ fits64 9223372036854775808)
    ∧ ¬ Determined .unnecessary (patternValue 11 52 (st 0x3FE0000000000000 0).opa.toNat * 10 ^ 0) := by
  have e0 : (st 0x7FF0000000000000 0).opa.toNat = 0x7FF0000000000000 := by decide
  have e1 : (st 0x7FEFFFFFFFFFFFFF 0).opa.toNat = 0x7FEFFFFFFFFFFFFF := by decide
  have e2 : (st 0x3FF0000000000000 0).opa.toNat = 0x3FF0000000000000 := by decide
  have e3 : (st 0x43E0000000000000 0).opa.toNat = 0x43E0000000000000 := by decide
  have e4 : (st 0x3FE0000000000000 0).opa.toNat = 0x3FE0000000000000 := by decide
  refine ⟨by unfold FinitePattern; decide, by unfold FinitePattern; decide, by unfold FinitePattern; decide,
    ⟨?_, by decide⟩, ⟨?_, by decide⟩, ?_⟩
  · norm_num [RoundsTo, patternValue, e0, e1, e2, e3, e4]
  · norm_num [RoundsTo, patternValue, e0, e1, e2, e3, e4]
  · have h := not_determined 1 2 (by decide) (by decide)
    norm_num [patternValue, e0, e1, e2, e3, e4] at h ⊢
    exact h

/-- The same of the single format: 1.0, 2^63, 0.5, an infinity and the largest finite pattern. -/
theorem witness_FromFloatRoundsTheExactValue :
    ¬ FinitePattern 8 23 ((st 0x7F800000 0).opa.toNat % 2 ^ 32) ∧ FinitePattern 8 23 ((st 0x7F7FFFFF 0).opa.toNat % 2 ^ 32)
    ∧ (RoundsTo .up (patternValue 8 23 ((st 0x3F800000 0).opa.toNat % 2 ^ 32) * 10 ^ 2) 100 ∧ fits64 100)
    ∧ (RoundsTo .up (patternValue 8 23 ((st 0x5F000000 0).opa.toNat % 2 ^ 32) * 10 ^ 0) 9223372036854775808
      ∧ ¬ fits64 9223372036854775808)
    ∧ ¬ Determined .unnecessary (patternValue 8 23 ((st 0x3F000000 0).opa.toNat % 2 ^ 32) * 10 ^ 0) := by
  have e0 : (st 0x7F800000 0).opa.toNat = 0x7F800000 := by decide
  have e1 : (st 0x7F7FFFFF 0).opa.toNat = 0x7F7FFFFF := by decide
  have e2 : (st 0x3F800000 0).opa.toNat = 0x3F800000 := by decide
  have e3 : (st 0x5F000000 0).opa.toNat = 0x5F000000 := by decide
  have e4 : (st 0x3F000000 0).opa.toNat = 0x3F000000 := by decide
  refine ⟨by unfold FinitePattern; decide, by unfold FinitePattern; decide, ⟨?_, by decide⟩, ⟨?_, by decide⟩, ?_⟩
  · norm_num [RoundsTo, patternValue, e0, e1, e2, e3, e4]
  · norm_num [RoundsTo, patternValue, e0, e1, e2, e3, e4]
  · have h := not_determined 1 2 (by decide) (by decide)
    norm_num [patternValue, e0, e1, e2, e3, e4] at h ⊢
    exact h

/-- 0.1 is not exact in binary: its exponent is −4. 2^53 + 1 is not exact in a double. -/
theorem witness_ToDoubleRoundsOnce :
    1 ≤ 18 ∧ (st 0 0).opa = 0 ∧ (st 1 0).opa ≠ 0
    ∧ Determined .halfEven (((st 1 0).opa.toInt : ℚ) / 10 ^ 1 * (2 : ℚ) ^ (52 - (-4) : Int))
    ∧ ¬ Determined .unnecessary (((st 9007199254740993 0).opa.toInt : ℚ) / 10 ^ 0 * (2 : ℚ) ^ (52 - 53 : Int)) := by
  have e0 : (st 1 0).opa.toInt = 1 := by decide
  have e1 : (st 9007199254740993 0).opa.toInt = 9007199254740993 := by decide
  refine ⟨by decide, rfl, by decide, determined_of_ne _ _ (by decide), ?_⟩
  have h := not_determined 9007199254740993 2 (by decide) (by decide)
  norm_num [e0, e1, zpow_neg, div_eq_mul_inv] at h ⊢
  exact h

/-- 2^24 + 1 is not exact in a single. -/
theorem witness_ToFloatRoundsOnce :
    1 ≤ 18 ∧ (st 0 0).opa = 0 ∧ (st 1 0).opa ≠ 0
    ∧ Determined .halfEven (((st 1 0).opa.toInt : ℚ) / 10 ^ 1 * (2 : ℚ) ^ (23 - (-4) : Int))
    ∧ ¬ Determined .unnecessary (((st 16777217 0).opa.toInt : ℚ) / 10 ^ 0 * (2 : ℚ) ^ (23 - 24 : Int)) := by
  have e0 : (st 1 0).opa.toInt = 1 := by decide
  have e1 : (st 16777217 0).opa.toInt = 16777217 := by decide
  refine ⟨by decide, rfl, by decide, determined_of_ne _ _ (by decide), ?_⟩
  have h := not_determined 16777217 2 (by decide) (by decide)
  norm_num [e0, e1, zpow_neg, div_eq_mul_inv] at h ⊢
  exact h

/-- The ends of the carrier and the scales 18 and 19. -/
theorem witness_HostLinesPresentOnlyWhatTheRegistersCarry :
    (-2 ^ 127 ≤ (-2 ^ 127 : Int) ∧ (-2 ^ 127 : Int) ≤ 2 ^ 127 - 1)
    ∧ (-2 ^ 127 ≤ (2 ^ 127 - 1 : Int) ∧ (2 ^ 127 - 1 : Int) ≤ 2 ^ 127 - 1)
    ∧ ¬ (-2 ^ 127 ≤ (2 ^ 127 : Int) ∧ (2 ^ 127 : Int) ≤ 2 ^ 127 - 1)
    ∧ ¬ (-2 ^ 127 ≤ (-2 ^ 127 - 1 : Int) ∧ (-2 ^ 127 - 1 : Int) ≤ 2 ^ 127 - 1)
    ∧ (Instr.toDec 18 .up 18).wf = true ∧ (Instr.toDec 18 .up 19).wf = false := by decide +kernel

theorem witness_SmallIntegersSurviveADouble : |(st (-9007199254740991) 0).opa.toInt| < 2 ^ 53 := by decide +kernel

end Sys2Proof.Tests
end

section
/-! SUPPORT. The host's transactions on registers (spec/20_memory.md R52 to R55): one equation per register of a write
and of a read, and what a run of reads leaves. Then, for every command at once, that what it ends with is read from
`OPA` and `OPB` alone, from which the same command issued again follows (R54, spec/60_exceptions.md R412). -/

namespace Sys2Proof.HostPort

open Sys2Proof.Machine

/-! ### One transaction -/

/-- The step with an event at the head of `port` is that event, on the state from whose list it was taken. -/
theorem step_event (s : State) (e : PortEvent) (rest : List PortEvent) :
    step { s with port := e :: rest } = portEvent e { s with port := rest } := rfl

theorem hostWrite_opa (s : State) (v : Word64) : hostWrite 0 v s = .next { s with opa := v } := rfl

theorem hostWrite_opb (s : State) (v : Word64) : hostWrite 1 v s = .next { s with opb := v } := rfl

theorem hostWrite_cmd (s : State) (v : Word64) :
    hostWrite 4 v s = execute (v.setWidth 32) { s with cmd := v.setWidth 32 } := rfl

theorem hostWrite_flags (s : State) (v : Word64) :
    hostWrite 6 v s = .next { s with flags := clearFlags s.flags (v.setWidth 32) } := rfl

/-- Writes to `RES`, `RESH`, `STATUS` and index 7 are ignored (R55; log 6). -/
theorem hostWrite_ignored (s : State) (v : Word64) (i : BitVec 3) (hi : i ∈ [(2 : BitVec 3), 3, 5, 7]) :
    hostWrite i v s = .next s := by
  simp only [List.mem_cons, List.not_mem_nil, or_false] at hi
  obtain rfl | rfl | rfl | rfl := hi <;> rfl

/-- The register map as reads see it, 32-bit registers zero-extended (R51 to R53). -/
theorem hostRead_of_mem (s : State) (i : BitVec 3) (x : Word64)
    (h : (i, x) ∈ [(0, s.opa), (1, s.opb), (2, s.res), (3, s.resh), (4, s.cmd.setWidth 64),
      (5, s.status.setWidth 64), (6, s.flags.setWidth 64), (7, 0)]) :
    hostRead i s = x := by
  simp only [List.mem_cons, List.not_mem_nil, or_false, Prod.mk.injEq] at h
  obtain ⟨rfl, rfl⟩ | ⟨rfl, rfl⟩ | ⟨rfl, rfl⟩ | ⟨rfl, rfl⟩ | ⟨rfl, rfl⟩ | ⟨rfl, rfl⟩ | ⟨rfl, rfl⟩ | ⟨rfl, rfl⟩ := h <;>
    rfl

/-- A read returns a register's value and does not look at the host's side of the run. -/
theorem hostRead_hostFields (s : State) (i : BitVec 3) (p : List PortEvent) (r : List Word64) :
    hostRead i { s with port := p, returned := r } = hostRead i s := rfl

theorem step_read (s : State) (i : BitVec 3) (rest : List PortEvent) :
    step { s with port := .read i :: rest }
      = .next { s with port := rest, returned := s.returned ++ [hostRead i s] } := by
  rw [step_event, portEvent, hostRead_hostFields s i rest s.returned]

/-- A write-one-to-clear through the 64-bit port: the data above bit 3 has no effect. -/
theorem clearFlags_setWidth_getLsbD (f : Word32) (v : Word64) (k : Nat) (hk : k < 32) :
    (clearFlags f (v.setWidth 32)).getLsbD k = (f.getLsbD k && !(decide (k < 4) && v.getLsbD k)) := by
  rw [clearFlags_getLsbD _ _ _ hk, BitVec.getLsbD_setWidth, decide_eq_true hk, Bool.true_and]

/-- Settles O7: the equations of `hostWrite` and `hostRead`, each transaction being the event at the head of `port`. -/
theorem hostTransactionsOnRegisters : Obligations.HostTransactionsOnRegisters := by
  intro s v rest
  refine ⟨hostWrite_opa _ v, hostWrite_opb _ v, hostWrite_cmd _ v, ?flags, ?ignored, ?reads⟩
  case flags => exact ⟨_, hostWrite_flags _ v, fun k hk => clearFlags_setWidth_getLsbD s.flags v k hk⟩
  case ignored => exact fun i hi => hostWrite_ignored _ v i hi
  case reads =>
    intro i x hx
    rw [step_read, hostRead_of_mem s i x hx]

/-! ### A run of reads -/

/-- A run whose first step answers a next state goes on from there. -/
theorem run_succ_of_next {M : Host.Core} {s t : M.State} (k : Nat) (h : M.step s = .next t) :
    M.run (k + 1) s = M.run k t := by
  rw [Host.Core.run, h]

/-- Settles O8, by induction on the list of reads: the first one leaves the seven registers, so the others read what
they would have read without it. -/
theorem readsNeverChangeTheBlock : Obligations.ReadsNeverChangeTheBlock := by
  intro s is rest
  induction is generalizing s with
  | nil => simp [Host.Core.run]
  | cons i is ih =>
    have first := step_read s i (is.map .read ++ rest)
    have others := ih { s with returned := s.returned ++ [hostRead i s] }
    calc Sys2Proof.core.run (i :: is).length { s with port := (i :: is).map .read ++ rest }
        = Sys2Proof.core.run is.length
            { s with port := is.map .read ++ rest, returned := s.returned ++ [hostRead i s] } :=
          run_succ_of_next is.length first
      _ = .next { s with port := rest, returned := s.returned ++ [hostRead i s] ++ is.map (fun j => hostRead j s) } :=
          others
      _ = .next { s with port := rest, returned := s.returned ++ (i :: is).map (fun j => hostRead j s) } := by
          rw [List.append_assoc, List.singleton_append, List.map_cons]

/-! ### A command issued again -/

/-- Do `OPA` and `OPB` hold the same in both states? -/
structure SameOperands (s t : State) : Prop where
  opa : t.opa = s.opa
  opb : t.opb = s.opb

/-- All the readings of the operand registers (R13, R83) and the shift count agree on the same operands. -/
theorem SameOperands.readings {s t : State} (h : SameOperands s t) :
    t.opa = s.opa ∧ t.a = s.a ∧ t.b = s.b ∧ t.ua = s.ua ∧ t.ub = s.ub ∧ t.wide = s.wide ∧ t.aLow = s.aLow
      ∧ t.shiftCount = s.shiftCount := by
  simp [State.a, State.b, State.ua, State.ub, State.wide, State.aLow, State.shiftCount, h.opa, h.opb]

/-- Is what `g` reads of the state only `OPA` and `OPB`? -/
def ReadsOnlyOperands {α : Type} (g : State → α) : Prop := ∀ s t : State, SameOperands s t → g t = g s

/-- Does the command end, in every state, with a 64-bit or a wide result, or a failure, that it computes from its
operands alone? -/
def EndsByOperands (m : State → Host.Outcome State Fault Refusal) : Prop :=
  (∃ g, ReadsOnlyOperands g ∧ ∀ s : State, m s = s.finish (g s))
    ∨ ∃ g, ReadsOnlyOperands g ∧ ∀ s : State, m s = s.finishWide (g s)

/-- `UMUL128` and `TODEC` end with a wide result, the other 31 commands with a 64-bit one; `UMUL128`, the commands of
ScaleMetrics and the comparisons cannot fail (R406). -/
theorem exec_endsByOperands (i : Instr) : EndsByOperands (exec i) := by
  cases i
  case umul128 => exact .inr ⟨fun _ => .ok (_, _), fun s t h => by simp only [h.readings], fun _ => rfl⟩
  case toDec => exact .inr ⟨_, fun s t h => by simp only [h.readings], fun _ => rfl⟩
  case smSf | smMinInt | smMaxInt | smNlz | sfMul | sfDiv | sfMod | sfDivu | sfMulHi | sfMulLo | cmp | isZero | signum =>
    exact .inl ⟨fun _ => .ok _, fun s t h => by simp only [h.readings], fun _ => rfl⟩
  all_goals exact .inl ⟨_, fun s t h => by simp only [h.readings], fun _ => rfl⟩

/-- A second success with the same result changes nothing more. -/
theorem succeed_succeed (s : State) (r : Word64) : (s.succeed r).succeed r = s.succeed r := by
  simp [State.succeed]

theorem succeedWide_succeedWide (s : State) (hi lo : Word64) :
    (s.succeedWide hi lo).succeedWide hi lo = s.succeedWide hi lo := by
  simp [State.succeedWide]

/-- A second failure of the same kind changes nothing more: its bit of `FLAGS` is sticky (R28). -/
theorem fail_fail (s : State) (k : FailKind) : (s.fail k).fail k = s.fail k := by
  simp [State.fail]

/-- Ending again with the same 64-bit result or failure; no end of a command writes an operand. -/
theorem finish_again {s t : State} {x : Except FailKind Word64} (h : s.finish x = .next t) :
    SameOperands s t ∧ t.finish x = .next t := by
  obtain ⟨r, rfl, hr⟩ | ⟨k, rfl, hk⟩ := finish_cases s x
  · obtain rfl : s.succeed r = t := Host.Outcome.next.inj (hr.symm.trans h)
    exact ⟨⟨rfl, rfl⟩, by rw [finish_ok, succeed_succeed]⟩
  · obtain rfl : s.fail k = t := Host.Outcome.next.inj (hk.symm.trans h)
    exact ⟨⟨rfl, rfl⟩, by rw [finish_error, fail_fail]⟩

/-- The same of a wide result. -/
theorem finishWide_again {s t : State} {x : Except FailKind (Word64 × Word64)} (h : s.finishWide x = .next t) :
    SameOperands s t ∧ t.finishWide x = .next t := by
  obtain ⟨hi, lo, rfl, hr⟩ | ⟨k, rfl, hk⟩ := finishWide_cases s x
  · obtain rfl : s.succeedWide hi lo = t := Host.Outcome.next.inj (hr.symm.trans h)
    exact ⟨⟨rfl, rfl⟩, by rw [finishWide_ok, succeedWide_succeedWide]⟩
  · obtain rfl : s.fail k = t := Host.Outcome.next.inj (hk.symm.trans h)
    exact ⟨⟨rfl, rfl⟩, by rw [finishWide_error, fail_fail]⟩

/-- Settles O20: the command computes the same end from the operands it left as they were, and ending so twice is
ending so once. -/
theorem reissuedCommandChangesNothingMore : Obligations.ReissuedCommandChangesNothingMore := by
  intro i s t h
  obtain ⟨g, reads, ends⟩ | ⟨g, reads, ends⟩ := exec_endsByOperands i
  · rw [ends] at h ⊢
    obtain ⟨same, again⟩ := finish_again h
    rw [reads s t same, again]
  · rw [ends] at h ⊢
    obtain ⟨same, again⟩ := finishWide_again h
    rw [reads s t same, again]

end Sys2Proof.HostPort
end

section
/-! SUPPORT. ScaleMetrics (spec/40_scale_metrics.md R100 to R116): the half-word multiplier rebuilds the exact product,
the bounds of a row of the ROM are a Galois connection with multiplication by the scale factor, and each command ends
with its own result. -/

namespace Sys2Proof.ScaleMetrics

open Sys2Proof.Machine Sys2Proof.Safety

/-! ### Half-words -/

theorem slice_low_word (x : Nat) : slice x 31 0 = x % 2 ^ 32 := by
  simp [slice]

/-- The high half-word of a 64-bit number needs no cut. -/
theorem slice_high_word {x : Nat} (hx : x < 2 ^ 64) : slice x 63 32 = x / 2 ^ 32 :=
  Nat.mod_eq_of_lt (by omega)

theorem aLow_eq (s : State) : s.aLow = s.opa.toNat % 2 ^ 32 := slice_low_word _

/-- The halves `SFH` and `SFL` of a row of the ROM are those of the scale factor (R101). -/
theorem metrics_halves (sc : Nat) : 2 ^ 32 * (metrics sc).sfHigh + (metrics sc).sfLow = 10 ^ sc :=
  Nat.div_add_mod _ _

theorem mulLo_lt (v sc : Nat) : mulLo v sc < 2 ^ 32 := Nat.mod_lt _ (by decide)

/-- `mulhi` and `mullo` are the two parts of the exact product, whatever the widths (R112, R113). -/
theorem mulHi_mulLo (v sc : Nat) : mulHi v sc * 2 ^ 32 + mulLo v sc = v * 10 ^ sc := by
  have split := Nat.div_add_mod (v * (metrics sc).sfLow) (2 ^ 32)
  calc mulHi v sc * 2 ^ 32 + mulLo v sc
      = 2 ^ 32 * (v * (metrics sc).sfHigh)
          + (2 ^ 32 * (v * (metrics sc).sfLow / 2 ^ 32) + v * (metrics sc).sfLow % 2 ^ 32) := by
        rw [mulHi, mulLo]; ring
    _ = v * (2 ^ 32 * (metrics sc).sfHigh + (metrics sc).sfLow) := by rw [split]; ring
    _ = v * 10 ^ sc := by rw [metrics_halves]

/-- A scale factor of a legal scale is a 60-bit number. -/
theorem scaleFactor_lt {sc : Nat} (h : sc ≤ 18) : 10 ^ sc < 2 ^ 60 :=
  lt_of_le_of_lt (Nat.pow_le_pow_right (by decide) h) (by decide)

/-- The high part of the product of a half-word and a legal scale factor. -/
theorem mulHi_lt {v sc : Nat} (hv : v < 2 ^ 32) (hsc : sc ≤ 18) : mulHi v sc < 2 ^ 60 := by
  have product : v * 10 ^ sc < 2 ^ 32 * 2 ^ 60 := Nat.mul_lt_mul'' hv (scaleFactor_lt hsc)
  have parts := mulHi_mulLo v sc
  omega

/-- The two half-word products of `MulSF`, added at their places, are the product of the whole word (R114). -/
theorem mulSf_eq {x : Nat} (sc : Nat) (hx : x < 2 ^ 64) : mulSf x sc = x * 10 ^ sc := by
  have high := mulHi_mulLo (x / 2 ^ 32) sc
  have low := mulHi_mulLo (x % 2 ^ 32) sc
  calc mulSf x sc
      = 2 ^ 32 * (mulHi (x / 2 ^ 32) sc * 2 ^ 32 + mulLo (x / 2 ^ 32) sc)
          + (mulHi (x % 2 ^ 32) sc * 2 ^ 32 + mulLo (x % 2 ^ 32) sc) := by
        rw [mulSf, slice_high_word hx, slice_low_word]; ring
    _ = (2 ^ 32 * (x / 2 ^ 32) + x % 2 ^ 32) * 10 ^ sc := by rw [high, low]; ring
    _ = x * 10 ^ sc := by rw [Nat.div_add_mod]

/-- The signed product is the unsigned one of the magnitude, with the sign of `a` put back (R176). The magnitude
of −2^63 is a 64-bit number too. -/
theorem sMulSf_eq {a : Int} (sc : Nat) (lo : -2 ^ 63 ≤ a) (hi : a < 2 ^ 63) : sMulSf a sc = a * 10 ^ sc := by
  have magnitude : a.natAbs < 2 ^ 64 := by omega
  rw [sMulSf, mulSf_eq sc magnitude]
  push_cast
  obtain neg | nonneg := Int.lt_or_le a 0
  · rw [if_pos neg, abs_of_neg neg, Int.neg_mul, Int.neg_neg]
  · rw [if_neg (by omega), abs_of_nonneg nonneg]

/-- Settles O27: the half-words of `x` one by one, then the magnitude and the sign of `a`. -/
theorem scaleMultiplierListingIsExact : Obligations.ScaleMultiplierListingIsExact :=
  ⟨fun _ sc hx => mulSf_eq sc hx, fun _ sc lo hi => sMulSf_eq sc lo hi⟩

/-! ### The bounds of a row -/

/-- Below a non-negative `m`, truncated division is the right adjoint of multiplication by a positive `d`. -/
theorem le_tdiv_iff_mul_le {n m d : Int} (hm : 0 ≤ m) (hd : 0 < d) : n ≤ Int.tdiv m d ↔ n * d ≤ m := by
  rw [Int.tdiv_eq_ediv_of_nonneg hm, Int.le_ediv_iff_mul_le hd]

/-- The same from below, where truncation goes up. -/
theorem neg_tdiv_le_iff_neg_le_mul {n m d : Int} (hm : 0 ≤ m) (hd : 0 < d) : Int.tdiv (-m) d ≤ n ↔ -m ≤ n * d := by
  have mirrored := le_tdiv_iff_mul_le (n := -n) hm hd
  rw [Int.neg_mul] at mirrored
  rw [Int.neg_tdiv]
  omega

/-- Settles O30: the two ends of the range, each by its truncated division. -/
theorem metricsBoundsAreTheRepresentableIntegers : Obligations.MetricsBoundsAreTheRepresentableIntegers := by
  intro sc n _
  have positive : (0 : Int) < 10 ^ sc := by positivity
  exact (and_congr (neg_tdiv_le_iff_neg_le_mul (by decide) positive) (le_tdiv_iff_mul_le (by decide) positive)).symm

/-- Settles O29: the rows are closed terms, evaluated. -/
theorem metricsRomHoldsThePrintedRows : Obligations.MetricsRomHoldsThePrintedRows := by
  unfold Obligations.MetricsRomHoldsThePrintedRows
  decide +kernel

/-! ### The number of leading zeros -/

/-- `nlz64(v)` places `v` between two powers of two (R12). -/
theorem nlz64_bounds {v : Nat} (pos : v ≠ 0) (hv : v < 2 ^ 64) :
    nlz64 v ≤ 63 ∧ 2 ^ (63 - nlz64 v) ≤ v ∧ v < 2 ^ (64 - nlz64 v) := by
  have small : Nat.log2 v < 64 := (Nat.log2_lt pos).2 hv
  have zeros : nlz64 v = 63 - Nat.log2 v := by
    rw [nlz64, bitlen, if_neg pos]
    omega
  have below : 63 - nlz64 v = Nat.log2 v := by omega
  have above : 64 - nlz64 v = Nat.log2 v + 1 := by omega
  rw [below, above]
  exact ⟨by omega, Nat.log2_self_le pos, Nat.lt_log2_self⟩

/-! ### The commands -/

/-- A command that ends with the result `r` and no failure has, in the terms of Safety, succeeded with `r`. -/
theorem succeeds_of_finish_ok {i : Instr} {s : State} {r : Word64} (h : exec i s = s.finish (.ok r)) :
    ∃ t, exec i s = .next t ∧ Succeeds s t r :=
  ⟨s.succeed r, h, succeed_succeeds s r⟩

/-- The scale factor as the integer the commands compute with. -/
theorem sf_cast (sc : Nat) : ((sf sc : Nat) : Int) = 10 ^ sc := Nat.cast_pow 10 sc

theorem exec_smSf (sc : Nat) (s : State) : exec (.smSf sc) s = s.finish (.ok (BitVec.ofInt 64 (10 ^ sc))) := by
  rw [← sf_cast]
  rfl

theorem exec_smMinInt (sc : Nat) (s : State) :
    exec (.smMinInt sc) s = s.finish (.ok (BitVec.ofInt 64 (Int.tdiv (-2 ^ 63) (10 ^ sc)))) := rfl

theorem exec_smMaxInt (sc : Nat) (s : State) :
    exec (.smMaxInt sc) s = s.finish (.ok (BitVec.ofInt 64 (Int.tdiv (2 ^ 63 - 1) (10 ^ sc)))) := rfl

theorem exec_smNlz (sc : Nat) (s : State) :
    exec (.smNlz sc) s = s.finish (.ok (BitVec.ofNat 64 (nlz64 (10 ^ sc)))) := by
  rw [← BitVec.ofInt_natCast]
  rfl

theorem exec_sfMul (sc : Nat) (s : State) :
    exec (.sfMul sc) s = s.finish (.ok (BitVec.ofInt 64 (s.opa.toInt * 10 ^ sc))) := by
  rw [← sMulSf_eq sc (BitVec.le_toInt s.opa) (BitVec.toInt_lt (x := s.opa))]
  rfl

theorem exec_sfDiv (sc : Nat) (s : State) :
    exec (.sfDiv sc) s = s.finish (.ok (BitVec.ofInt 64 (Int.tdiv s.opa.toInt (10 ^ sc)))) := by
  rw [← sf_cast]
  rfl

theorem exec_sfMod (sc : Nat) (s : State) :
    exec (.sfMod sc) s = s.finish (.ok (BitVec.ofInt 64 (Int.tmod s.opa.toInt (10 ^ sc)))) := by
  rw [← sf_cast]
  rfl

theorem exec_sfDivu (sc : Nat) (s : State) :
    exec (.sfDivu sc) s = s.finish (.ok (BitVec.ofNat 64 (s.opa.toNat / 10 ^ sc))) := by
  rw [← BitVec.ofInt_natCast]
  rfl

theorem exec_sfMulHi (sc : Nat) (s : State) :
    exec (.sfMulHi sc) s = s.finish (.ok (BitVec.ofNat 64 (mulHi s.aLow sc))) := by
  rw [← BitVec.ofInt_natCast]
  rfl

theorem exec_sfMulLo (sc : Nat) (s : State) :
    exec (.sfMulLo sc) s = s.finish (.ok (BitVec.ofNat 64 (mulLo s.aLow sc))) := by
  rw [← BitVec.ofInt_natCast]
  rfl

/-- Settles O31: the four reads, the last one by the bounds of `nlz64` on the scale factor. -/
theorem tableReadsGiveTheRow : Obligations.TableReadsGiveTheRow := by
  intro sc s hsc
  have bounds := nlz64_bounds (v := 10 ^ sc) (by positivity) ((scaleFactor_lt hsc).trans (by decide))
  obtain ⟨t, run, ends⟩ := succeeds_of_finish_ok (exec_smNlz sc s)
  exact ⟨succeeds_of_finish_ok (exec_smSf sc s), succeeds_of_finish_ok (exec_smMinInt sc s),
    succeeds_of_finish_ok (exec_smMaxInt sc s), t, nlz64 (10 ^ sc), run, ends, bounds⟩

/-- Settles O32: the multiplier is exact on every operand, so its result is cut once, by `bits64`. -/
theorem scaleFactorMultiplyWraps : Obligations.ScaleFactorMultiplyWraps :=
  fun sc s => succeeds_of_finish_ok (exec_sfMul sc s)

/-- The remainder of a truncated division has the sign of the dividend, or is 0. -/
theorem tmod_mul_dividend_nonneg (a d : Int) : 0 ≤ Int.tmod a d * a := by
  obtain nonneg | neg := Int.le_total 0 a
  · exact mul_nonneg (Int.tmod_nonneg d nonneg) nonneg
  · have mirrored : 0 ≤ Int.tmod (-a) d := Int.tmod_nonneg d (by omega)
    rw [Int.neg_tmod] at mirrored
    exact mul_nonneg_of_nonpos_of_nonpos (by omega) neg

theorem abs_tmod_lt (a : Int) {d : Int} (hd : 0 < d) : |Int.tmod a d| < d :=
  abs_lt.2 ⟨Int.lt_tmod_of_pos a hd, Int.tmod_lt_of_pos a hd⟩

/-- Settles O33: `Int.tdiv` and `Int.tmod` are the quotient and the remainder that the statement describes. -/
theorem scaleFactorDivisionTruncates : Obligations.ScaleFactorDivisionTruncates := by
  intro sc s
  have rebuilt := Int.mul_tdiv_add_tmod s.opa.toInt (10 ^ sc)
  exact ⟨⟨_, _, rebuilt.symm, abs_tmod_lt _ (by positivity), tmod_mul_dividend_nonneg _ _,
    succeeds_of_finish_ok (exec_sfDiv sc s), succeeds_of_finish_ok (exec_sfMod sc s)⟩,
    succeeds_of_finish_ok (exec_sfDivu sc s)⟩

/-- Settles O34: the low part is below 2^32, so OR-ing the parts is adding them. -/
theorem halfWordProductsRebuildExactly : Obligations.HalfWordProductsRebuildExactly := by
  intro sc s hsc
  have halfWord : s.aLow < 2 ^ 32 := by
    rw [aLow_eq]
    exact Nat.mod_lt _ (by decide)
  have rebuilt : mulHi s.aLow sc <<< 32 ||| mulLo s.aLow sc = s.opa.toNat % 2 ^ 32 * 10 ^ sc := by
    rw [← Nat.shiftLeft_add_eq_or_of_lt (mulLo_lt _ _), Nat.shiftLeft_eq, mulHi_mulLo, aLow_eq]
  obtain ⟨t, runHi, endsHi⟩ := succeeds_of_finish_ok (exec_sfMulHi sc s)
  obtain ⟨u, runLo, endsLo⟩ := succeeds_of_finish_ok (exec_sfMulLo sc s)
  exact ⟨t, u, _, _, runHi, endsHi, runLo, endsLo, mulHi_lt halfWord hsc, mulLo_lt _ _, rebuilt⟩

end Sys2Proof.ScaleMetrics
end

section
/-! SUPPORT. Multiply, divide, power and square root at a scale (spec/44_multiply_divide.md R240 to R257): the rounded
division is the rounding of the exact quotient, the signed wide product is exact, a power is one `MUL` after another,
and the digit recurrence finds the integer square root. -/

namespace Sys2Proof.MultiplyDivide

open Sys2Proof.Machine Sys2Proof.Safety

/-! ### The rounded division -/

/-- Is `cls` the class of the discarded fraction `f` (R140)? -/
def FractionClass (cls : RemClass) (f : ℚ) : Prop :=
  match cls with
  | .zero => f = 0
  | .lt => 0 < f ∧ f < 1 / 2
  | .eq => f = 1 / 2
  | .gt => 1 / 2 < f ∧ f < 1

/-- `Classify` tells the class of the fraction `r / d` (R140). -/
theorem classify_fractionClass {r d : Nat} (h : r < d) : FractionClass (classify r d) ((r : ℚ) / d) := by
  have pos : (0 : ℚ) < d := by exact_mod_cast Nat.zero_lt_of_lt h
  unfold classify
  split_ifs with zero lt eq
  · simp [FractionClass, zero]
  · have rpos : (0 : ℚ) < r := by exact_mod_cast Nat.pos_of_ne_zero zero
    have below : (2 * r : ℚ) < d := by exact_mod_cast lt
    exact ⟨by positivity, by rw [div_lt_iff₀ pos]; linarith⟩
  · have half : (2 * r : ℚ) = d := by exact_mod_cast eq
    show (r : ℚ) / d = 1 / 2
    rw [div_eq_iff pos.ne']; linarith
  · have above : (d : ℚ) < 2 * r := by exact_mod_cast (by omega : d < 2 * r)
    have proper : (r : ℚ) < d := by exact_mod_cast h
    exact ⟨by rw [lt_div_iff₀ pos]; linarith, by rw [div_lt_iff₀ pos]; linarith⟩

theorem FractionClass.bounds {cls : RemClass} {f : ℚ} (h : FractionClass cls f) : 0 ≤ f ∧ f < 1 := by
  cases cls <;> simp only [FractionClass] at h <;> constructor <;> linarith

/-- What mode `rm` asks of the rounding of `q + f` to `q + adj`, said of the fraction and the adjustment. -/
def AdjustmentRounds (rm : RoundMode) (q adj : Nat) (f : ℚ) : Prop :=
  match rm with
  | .up | .ceiling => f ≤ adj ∧ adj < f + 1
  | .down | .floor => adj ≤ f ∧ f < adj + 1
  | .halfUp => |f - adj| < 1 / 2 ∨ (|f - adj| = 1 / 2 ∧ f < adj)
  | .halfDown => |f - adj| < 1 / 2 ∨ (|f - adj| = 1 / 2 ∧ adj < f)
  | .halfEven => |f - adj| < 1 / 2 ∨ (|f - adj| = 1 / 2 ∧ (q + adj) % 2 = 0)
  | .unnecessary => f = adj

theorem roundsTo_iff_adjustmentRounds {f : ℚ} (f0 : 0 ≤ f) (rm : RoundMode) (q adj : Nat) :
    RoundsTo rm (q + f) ((q + adj : Nat) : Int) ↔ AdjustmentRounds rm q adj f := by
  have q0 : (0 : ℚ) ≤ q := q.cast_nonneg
  have a0 : (0 : ℚ) ≤ adj := adj.cast_nonneg
  have abs_exact : |(q : ℚ) + f| = q + f := abs_of_nonneg (by linarith)
  have abs_value : |(q : ℚ) + adj| = q + adj := abs_of_nonneg (by linarith)
  have sameSign : 0 ≤ ((q : ℚ) + f) * (q + adj) := by positivity
  have error : (q : ℚ) + f - (q + adj) = f - adj := by ring
  have even : ((q : Int) + adj) % 2 = 0 ↔ (q + adj) % 2 = 0 := by omega
  cases rm <;>
    simp [RoundsTo, AdjustmentRounds, abs_exact, abs_value, sameSign, error, even, add_assoc]

/-- The selector's choice of the magnitude `q` or `q + 1` is the mode's rounding of a value `q + f` that is not
negative (R142, R143): class by class, the adjustment each mode selects. Only a tie under HALF_EVEN looks at `q`. -/
theorem roundsTo_of_roundAdj {rm : RoundMode} {q adj : Nat} {cls : RemClass} {f : ℚ} (hf : FractionClass cls f)
    (h : roundAdj rm false (q % 2 == 1) cls = .ok adj) : RoundsTo rm (q + f) ((q + adj : Nat) : Int) := by
  obtain ⟨f0, f1⟩ := hf.bounds
  rw [roundsTo_iff_adjustmentRounds f0]
  unfold AdjustmentRounds
  have kept : |f| = f := abs_of_nonneg f0
  have raised : |f - 1| = 1 - f := by rw [abs_sub_comm]; exact abs_of_nonneg (by linarith)
  cases cls with
  | zero =>
    obtain rfl : 0 = adj := by simpa using h
    obtain rfl : f = 0 := hf
    cases rm <;> norm_num
  | lt =>
    obtain ⟨pos, below⟩ : 0 < f ∧ f < 1 / 2 := hf
    cases rm <;> simp [roundAdj] at h <;> subst h <;> norm_num [kept, f0, f1, f1.le, pos, below]
  | eq =>
    obtain rfl : f = 1 / 2 := hf
    cases rm
    case halfEven =>
      obtain even | odd := Nat.mod_two_eq_zero_or_one q
      · obtain rfl : 0 = adj := by simpa [roundAdj, even] using h
        norm_num [abs_of_pos, even]
      · obtain rfl : 1 = adj := by simpa [roundAdj, odd] using h
        norm_num [abs_of_pos, Nat.add_mod, odd]
    all_goals simp [roundAdj] at h <;> subst h <;> norm_num [abs_of_pos]
  | gt =>
    obtain ⟨above, _⟩ : 1 / 2 < f ∧ f < 1 := hf
    have pos : 0 < f := by linarith
    have near : 1 - f < 1 / 2 := by linarith
    cases rm <;> simp [roundAdj] at h <;> subst h <;> norm_num [raised, f0, f1, f1.le, pos, near]

/-- The same mode for the magnitude of a negative value. -/
def mirror : RoundMode → RoundMode
  | .ceiling => .floor
  | .floor => .ceiling
  | rm => rm

theorem roundAdj_negative (rm : RoundMode) (odd : Bool) (cls : RemClass) :
    roundAdj rm true odd cls = roundAdj (mirror rm) false odd cls := by
  cases rm <;> rfl

theorem roundsTo_neg (rm : RoundMode) (x : ℚ) (v : Int) : RoundsTo rm (-x) (-v) ↔ RoundsTo (mirror rm) x v := by
  have error : |-x + (v : ℚ)| = |x - v| := by rw [← abs_neg]; ring_nf
  have even : v % 2 = 0 ↔ -v % 2 = 0 := by omega
  cases rm
  case floor | ceiling =>
    simp only [RoundsTo, mirror]
    push_cast
    constructor <;> rintro ⟨_, _⟩ <;> constructor <;> linarith
  all_goals simp [RoundsTo, mirror, error, even]

/-- The magnitude of the exact quotient is the quotient of the magnitudes and the discarded fraction (R146). -/
theorem abs_quotient (n d : Int) (hd : d ≠ 0) :
    |(n : ℚ) / d| = ((n.natAbs / d.natAbs : Nat) : ℚ) + ((n.natAbs % d.natAbs : Nat) : ℚ) / (d.natAbs : Nat) := by
  have d0 : (d.natAbs : ℚ) ≠ 0 := by exact_mod_cast Int.natAbs_ne_zero.2 hd
  have parts : (d.natAbs : ℚ) * (n.natAbs / d.natAbs : Nat) + (n.natAbs % d.natAbs : Nat) = n.natAbs := by
    exact_mod_cast Nat.div_add_mod n.natAbs d.natAbs
  calc |(n : ℚ) / d| = (n.natAbs : ℚ) / d.natAbs := by simp only [abs_div, Nat.cast_natAbs, Int.cast_abs]
    _ = _ := by rw [← parts]; field_simp

/-- The sign the model takes is that of the exact quotient (R146). -/
theorem negQuotient_iff {n d : Int} (hd : d ≠ 0) : negQuotient n d = true ↔ (n : ℚ) / d < 0 := by
  rw [div_neg_iff]
  norm_cast
  simp only [negQuotient, Bool.and_eq_true, decide_eq_true_eq, bne_iff_ne, ne_eq, decide_eq_decide]
  omega

/-- A mapped answer comes from an answer. -/
theorem except_map_eq_ok {ε α β : Type} {x : Except ε α} {f : α → β} {b : β} (h : x.map f = .ok b) :
    ∃ a, x = .ok a ∧ f a = b := by
  cases x with
  | ok a => exact ⟨a, rfl, Except.ok.inj h⟩
  | error e => cases h

/-- The rounded division is the selector's adjustment of the magnitude, with the sign put back (R146). -/
theorem roundDiv_eq (n d : Int) (rm : RoundMode) :
    roundDiv n d rm =
      (roundAdj rm (negQuotient n d) (n.natAbs / d.natAbs % 2 == 1) (classify (n.natAbs % d.natAbs) d.natAbs)).map
        fun adj => if negQuotient n d then -((n.natAbs / d.natAbs + adj : Nat) : Int)
          else ((n.natAbs / d.natAbs + adj : Nat) : Int) := by
  cases selected : roundAdj rm (negQuotient n d) (n.natAbs / d.natAbs % 2 == 1)
    (classify (n.natAbs % d.natAbs) d.natAbs) <;> simp only [roundDiv, uDivRem, selected] <;> rfl

/-- A rounded division by a divisor other than 0 that answers gives the mode's rounding of the exact quotient
(R142, R146). A negative quotient is rounded by its magnitude under the mirrored mode. -/
theorem roundsTo_of_roundDiv {n d v : Int} {rm : RoundMode} (hd : d ≠ 0) (h : roundDiv n d rm = .ok v) :
    RoundsTo rm ((n : ℚ) / d) v := by
  have fraction := classify_fractionClass (Nat.mod_lt n.natAbs (Int.natAbs_pos.2 hd))
  have magnitude := abs_quotient n d hd
  rw [roundDiv_eq] at h
  obtain ⟨adj, selected, rfl⟩ := except_map_eq_ok h
  cases sign : negQuotient n d
  case false =>
    have nonneg : 0 ≤ (n : ℚ) / d := not_lt.1 fun neg => by simp [(negQuotient_iff hd).2 neg] at sign
    rw [sign] at selected
    rw [← abs_of_nonneg nonneg, magnitude]
    exact roundsTo_of_roundAdj fraction selected
  case true =>
    have neg : (n : ℚ) / d < 0 := (negQuotient_iff hd).1 sign
    rw [sign, roundAdj_negative] at selected
    rw [← neg_neg ((n : ℚ) / d), ← abs_of_neg neg, magnitude]
    exact (roundsTo_neg _ _ _).2 (roundsTo_of_roundAdj fraction selected)

/-- A rounding answers only where the mode determines one. -/
theorem determined_of_roundsTo {rm : RoundMode} {x : ℚ} {v : Int} (h : RoundsTo rm x v) : Determined rm x := by
  cases rm
  case unnecessary => exact .inr ⟨v, h⟩
  all_goals exact .inl (by decide)

/-- UNNECESSARY gives a quotient with a remainder no rounding (R142). -/
theorem not_determined_of_remainder {n d : Int} (hd : d ≠ 0) (h : n.natAbs % d.natAbs ≠ 0) :
    ¬ Determined .unnecessary ((n : ℚ) / d) := by
  rintro (ne | ⟨k, hk⟩)
  · exact ne rfl
  · have d0 : (d : ℚ) ≠ 0 := by exact_mod_cast hd
    have product : n = k * d := by exact_mod_cast (div_eq_iff d0).1 hk
    exact h (by rw [product, Int.natAbs_mul, Nat.mul_mod_left])

/-- How a rounded division ends, in the terms of Safety. -/
theorem roundDiv_spec {n d : Int} (hd : d ≠ 0) (rm : RoundMode) :
    (∃ v, roundDiv n d rm = .ok v ∧ RoundsTo rm ((n : ℚ) / d) v)
      ∨ (roundDiv n d rm = .error .roundingRequired ∧ ¬ Determined rm ((n : ℚ) / d)) := by
  obtain ⟨v, h⟩ | ⟨h, rfl, remainder⟩ := roundDiv_cases n d rm
  · exact .inl ⟨v, h, roundsTo_of_roundDiv hd h⟩
  · exact .inr ⟨h, not_determined_of_remainder hd remainder⟩

/-- A command that ends with a rounded division and then the overflow arbiter rounds the exact quotient `x` by its
mode, then narrows; rounding fails first (R410). -/
theorem rounds_then_narrows {i : Instr} {s : State} {n d : Int} {rm : RoundMode} {ov : OvMode} {x : ℚ} (hd : d ≠ 0)
    (hx : (n : ℚ) / d = x)
    (ends : exec i s = s.finish (do let v ← roundDiv n d rm; return bits64 (← narrow64 v ov))) :
    (Determined rm x →
      ∃ v, RoundsTo rm x v
        ∧ (fits64 v ∨ ov = .unchecked → ∃ t, exec i s = .next t ∧ Succeeds s t (BitVec.ofInt 64 v))
        ∧ (¬ fits64 v ∧ ov = .checked → ∃ t, exec i s = .next t ∧ Fails s t codeRangeOverflow))
    ∧ (¬ Determined rm x → ∃ t, exec i s = .next t ∧ Fails s t codeRoundingRequired) := by
  subst hx
  rw [ends]
  obtain ⟨v, rounded, isRounding⟩ | ⟨failed, undetermined⟩ := roundDiv_spec (n := n) hd rm
  · refine ⟨fun _ => ⟨v, isRounding, ?_⟩, fun undetermined => absurd (determined_of_roundsTo isRounding) undetermined⟩
    rw [rounded, except_ok_bind]
    obtain ⟨fits, narrowed⟩ | ⟨wide, rfl, narrowed⟩ | ⟨wide, rfl, narrowed⟩ := narrow64_cases v ov
    · rw [narrowed]
      exact ⟨fun _ => ⟨_, rfl, succeed_succeeds s _⟩, fun ⟨wide, _⟩ => absurd fits wide⟩
    · rw [narrowed, except_ok_bind, bits64_wrap64]
      exact ⟨fun _ => ⟨_, rfl, succeed_succeeds s _⟩, fun ⟨_, checked⟩ => by cases checked⟩
    · rw [narrowed]
      exact ⟨fun kept => by simp [wide] at kept, fun _ => ⟨_, rfl, fail_fails s .rangeOverflow⟩⟩
  · rw [failed]
    exact ⟨fun determined => absurd determined undetermined, fun _ => ⟨_, rfl, fail_fails s .roundingRequired⟩⟩

/-! ### `MUL` and `DIV` -/

/-- The four partial products, added at their places, are the product of two 64-bit numbers (R171). -/
theorem uMul128_eq {x y : Nat} (hx : x < 2 ^ 64) (hy : y < 2 ^ 64) :
    (uMul128 x y).1 * 2 ^ 64 + (uMul128 x y).2 = x * y := by
  have product : x * y = (x / 2 ^ 32) * (y / 2 ^ 32) * 2 ^ 64 + (x / 2 ^ 32) * (y % 2 ^ 32) * 2 ^ 32
      + (x % 2 ^ 32) * (y / 2 ^ 32) * 2 ^ 32 + (x % 2 ^ 32) * (y % 2 ^ 32) := by
    calc x * y = (2 ^ 32 * (x / 2 ^ 32) + x % 2 ^ 32) * (2 ^ 32 * (y / 2 ^ 32) + y % 2 ^ 32) := by
          rw [Nat.div_add_mod, Nat.div_add_mod]
      _ = _ := by ring
  simp only [uMul128, ScaleMetrics.slice_high_word hx, ScaleMetrics.slice_high_word hy, ScaleMetrics.slice_low_word]
  rw [product]
  generalize x / 2 ^ 32 * (y / 2 ^ 32) = p3
  generalize x / 2 ^ 32 * (y % 2 ^ 32) = p2
  generalize x % 2 ^ 32 * (y / 2 ^ 32) = p1
  generalize x % 2 ^ 32 * (y % 2 ^ 32) = p0
  omega

/-- The product of two signed registers is exact, −2^63 included (R175). -/
theorem sMul128_eq {a b : Int} (ha : fits64 a) (hb : fits64 b) : sMul128 a b = a * b := by
  simp only [fits64, int64Min, int64Max] at ha hb
  have amag : a.natAbs < 2 ^ 64 := by omega
  have bmag : b.natAbs < 2 ^ 64 := by omega
  simp only [sMul128, uMul128_eq amag bmag, sgn, ← Int.sign_mul, Int.sign_neg_iff, ← Int.natAbs_mul]
  split_ifs <;> omega

/-- A register's signed reading fits 64 bits. -/
theorem fits64_toInt (w : Word64) : fits64 w.toInt :=
  ⟨BitVec.le_toInt w, Int.le_sub_one_of_lt (BitVec.toInt_lt (x := w))⟩

theorem scaleFactor_ne_zero (sc : Nat) : ((sf sc : Nat) : Int) ≠ 0 := by positivity

/-- One multiplication of two 64-bit values: the exact product over the scale factor, rounded and narrowed (R240). -/
theorem mulStep_eq {a b : Int} (ha : fits64 a) (hb : fits64 b) (sc : Nat) (rm : RoundMode) (ov : OvMode) :
    mulStep a b sc rm ov = (do let v ← roundDiv (a * b) (sf sc) rm; narrow64 v ov) := by
  rw [mulStep, sMul128_eq ha hb]

theorem exec_mul (sc : Nat) (rm : RoundMode) (ov : OvMode) (s : State) :
    exec (.mul sc rm ov) s = s.finish (do return bits64 (← mulStep s.opa.toInt s.opb.toInt sc rm ov)) := rfl

theorem exec_div (sc : Nat) (rm : RoundMode) (ov : OvMode) (s : State) :
    exec (.div sc rm ov) s = s.finish (
      if s.opb.toInt = 0 then .error .invalidOperand
      else do let v ← roundDiv (sMulSf s.opa.toInt sc) s.opb.toInt rm; return bits64 (← narrow64 v ov)) := rfl

/-- Settles O43: the product is exact, so the rounded division by the scale factor is the mode's rounding. -/
theorem multiplyRoundsThenNarrows : Obligations.MultiplyRoundsThenNarrows := by
  intro sc rm ov s
  refine rounds_then_narrows (scaleFactor_ne_zero sc) (n := s.opa.toInt * s.opb.toInt) (by push_cast; rfl) ?_
  rw [exec_mul, mulStep_eq (fits64_toInt _) (fits64_toInt _), bind_assoc]

/-- Settles O44: the scale multiplier is exact, so the dividend is `A × 10^s`. -/
theorem divideRoundsThenNarrows : Obligations.DivideRoundsThenNarrows := by
  intro sc rm ov s divisor
  have nonzero : s.opb.toInt ≠ 0 := fun h => divisor (BitVec.toInt_inj.1 h)
  refine rounds_then_narrows nonzero (n := s.opa.toInt * 10 ^ sc) (by push_cast; rfl) ?_
  rw [exec_div, if_neg nonzero, ScaleMetrics.sMulSf_eq sc (BitVec.le_toInt s.opa) (BitVec.toInt_lt (x := s.opa))]

/-- Settles O45: the divisor is looked at before anything else. -/
theorem divisionByZeroIsNeverSuppressed : Obligations.DivisionByZeroIsNeverSuppressed := by
  intro sc rm ov s zero
  refine ⟨_, ?_, fail_fails s .invalidOperand⟩
  rw [exec_div, zero, if_pos (by decide), finish_error]

/-! ### `POW` -/

theorem exec_pow (sc : Nat) (rm : RoundMode) (ov : OvMode) (s : State) :
    exec (.pow sc rm ov) s = s.finish (do return bits64 (← powValue s.opa.toInt s.opb.toNat sc rm ov)) := rfl

/-- The pattern of a register's signed reading is the register. -/
theorem bits64_toInt (w : Word64) : bits64 w.toInt = w := BitVec.ofInt_toInt

/-- The power to the exponent 0 is one at the scale, whatever the operand (R250). -/
theorem exec_pow_zero (sc : Nat) (rm : RoundMode) (ov : OvMode) {s : State} (zero : s.opb.toNat = 0) :
    exec (.pow sc rm ov) s = .next (s.succeed (BitVec.ofInt 64 (10 ^ sc))) := by
  rw [exec_pow, zero, powValue_within _ _ _ _ _ (Nat.zero_le _), if_pos rfl, ScaleMetrics.sf_cast, except_ok_bind,
    except_pure, finish_ok]

/-- Settles O46: each of the three exponents decides a branch of the power before any multiplication. -/
theorem powerOfSmallAndExcessiveExponents : Obligations.PowerOfSmallAndExcessiveExponents := by
  intro sc rm ov s
  refine ⟨fun zero => ⟨_, exec_pow_zero sc rm ov zero, succeed_succeeds s _⟩, fun one => ?one, fun above => ?above⟩
  case one =>
    refine ⟨_, ?_, succeed_succeeds s _⟩
    rw [exec_pow, one, powValue_within _ _ _ _ _ one_le_powExpMax, if_neg Nat.one_ne_zero, powSteps,
      except_ok_bind, except_pure, finish_ok, bits64_toInt]
  case above =>
    refine ⟨_, ?_, fail_fails s .rangeOverflow⟩
    rw [exec_pow, powValue_above _ _ _ _ _ above, except_error_bind, finish_error]

/-- The loop that multiplies from the left also multiplies once more at its end (R250). -/
theorem powSteps_succ (a : Int) (sc : Nat) (rm : RoundMode) (ov : OvMode) (k : Nat) (r : Int) :
    powSteps a sc rm ov (k + 1) r = powSteps a sc rm ov k r >>= fun p => mulStep p a sc rm ov := by
  induction k generalizing r with
  | zero =>
    rw [powSteps, powSteps, except_ok_bind]
    exact bind_pure _
  | succ k ih =>
    calc powSteps a sc rm ov (k + 2) r
        = mulStep r a sc rm ov >>= fun r' => powSteps a sc rm ov (k + 1) r' := rfl
      _ = mulStep r a sc rm ov >>= fun r' => powSteps a sc rm ov k r' >>= fun p => mulStep p a sc rm ov := by
          simp only [ih]
      _ = powSteps a sc rm ov (k + 1) r >>= fun p => mulStep p a sc rm ov := by
          rw [powSteps, bind_assoc]

/-- One more in the exponent, within the bound, is one more multiplication by `A` (R250). -/
theorem powValue_succ (a : Int) {n : Nat} (pos : 1 ≤ n) (within : n + 1 ≤ Config.powExpMax) (sc : Nat) (rm : RoundMode)
    (ov : OvMode) : powValue a (n + 1) sc rm ov = powValue a n sc rm ov >>= fun p => mulStep p a sc rm ov := by
  obtain ⟨k, rfl⟩ := Nat.exists_eq_add_of_le' pos
  rw [powValue_within _ _ _ _ _ within, powValue_within _ _ _ _ _ (by omega), if_neg (by omega), if_neg (by omega)]
  exact powSteps_succ a sc rm ov k a

theorem fits64_of_narrow64 {v w : Int} {ov : OvMode} (h : narrow64 v ov = .ok w) : fits64 w := by
  obtain ⟨fits, e⟩ | ⟨_, _, e⟩ | ⟨_, _, e⟩ := narrow64_cases v ov
  · exact Except.ok.inj (e.symm.trans h) ▸ fits
  · exact Except.ok.inj (e.symm.trans h) ▸ fits64_toInt _
  · cases e.symm.trans h

/-- What a multiplication leaves is a 64-bit value. -/
theorem fits64_of_mulStep {x y w : Int} {sc : Nat} {rm : RoundMode} {ov : OvMode} (h : mulStep x y sc rm ov = .ok w) :
    fits64 w := by
  unfold mulStep at h
  obtain ⟨v, e⟩ | ⟨e, _⟩ := roundDiv_cases (sMul128 x y) (sf sc) rm
  · rw [e] at h
    exact fits64_of_narrow64 h
  · rw [e] at h
    cases h

theorem fits64_of_powSteps {a r w : Int} {sc : Nat} {rm : RoundMode} {ov : OvMode} {k : Nat} (hr : fits64 r)
    (h : powSteps a sc rm ov k r = .ok w) : fits64 w := by
  induction k generalizing r with
  | zero => exact Except.ok.inj h ▸ hr
  | succ k ih =>
    cases first : mulStep r a sc rm ov with
    | ok r' =>
      rw [powSteps, first] at h
      exact ih (fits64_of_mulStep first) h
    | error e =>
      rw [powSteps, first] at h
      cases h

/-- The power of a register to an exponent from 1 is a 64-bit value. -/
theorem fits64_of_powValue {a r : Int} {n sc : Nat} {rm : RoundMode} {ov : OvMode} (ha : fits64 a) (pos : 1 ≤ n)
    (h : powValue a n sc rm ov = .ok r) : fits64 r := by
  obtain above | within := Nat.lt_or_ge Config.powExpMax n
  · rw [powValue_above _ _ _ _ _ above] at h
    cases h
  · rw [powValue_within _ _ _ _ _ within, if_neg (by omega)] at h
    exact fits64_of_powSteps ha h

/-- A value that fits is its own wrap. -/
theorem wrap64_of_fits64 {v : Int} (h : fits64 v) : wrap64 v = v := by
  obtain ⟨lo, hi⟩ := h
  exact BitVec.toInt_ofInt_eq_self (by decide) lo (Int.lt_of_le_sub_one hi)

theorem succeed_err (s : State) (r : Word64) : (s.succeed r).status.toNat % 8 = 0 := withErr_mod _ _

theorem fail_err_ne_zero (s : State) (k : FailKind) : (s.fail k).status.toNat % 8 ≠ 0 := by
  rw [State.fail_status, withErr_mod]
  cases k <;> decide

/-- The same end on two states that hold the same `RES` leaves the same `ERR` and `RES`. -/
theorem finish_agree {s s' : State} (same : s.res = s'.res) (x : Except FailKind Word64) :
    ∃ p u, s.finish x = .next p ∧ s'.finish x = .next u
      ∧ p.status.toNat % 8 = u.status.toNat % 8 ∧ p.res = u.res := by
  cases x with
  | ok r => exact ⟨_, _, rfl, rfl, by simp, rfl⟩
  | error k => exact ⟨_, _, rfl, rfl, by simp, same⟩

/-- Settles O47: the power to `n + 1` is the power to `n` and one multiplication; the power to `n` is a 64-bit value,
so the host's `MUL` reads from `OPA` the value the loop holds. -/
theorem powerIsRepeatedMultiplication : Obligations.PowerIsRepeatedMultiplication := by
  intro sc rm ov s n pos hn
  have exponent (m : Nat) (hm : m < 2 ^ 64) : (BitVec.ofNat 64 m).toNat = m := by
    rw [BitVec.toNat_ofNat, Nat.mod_eq_of_lt hm]
  simp only [exec_pow, exec_mul, exponent n (by omega), exponent (n + 1) hn]
  obtain above | within := Nat.lt_or_ge Config.powExpMax (n + 1)
  · rw [powValue_above _ _ _ _ _ above]
    obtain ⟨_, _, run⟩ | ⟨_, _, run⟩ := finish_cases { s with opb := BitVec.ofNat 64 n }
      (do return bits64 (← powValue s.opa.toInt n sc rm ov))
    all_goals exact ⟨_, _, run, rfl, fun _ => by simp [FailKind.code], by omega, by omega⟩
  · rw [powValue_succ _ pos within]
    cases power : powValue s.opa.toInt n sc rm ov with
    | error k =>
      exact ⟨_, _, rfl, rfl, by omega, fun _ _ => rfl, fun _ success => absurd success (fail_err_ne_zero _ k)⟩
    | ok r =>
      have reading : (bits64 r).toInt = r := wrap64_of_fits64 (fits64_of_powValue (fits64_toInt _) pos power)
      obtain ⟨p, u, runP, runU, agree⟩ := finish_agree (s := { s with opb := BitVec.ofNat 64 (n + 1) })
        (s' := { s with opa := bits64 r, opb := s.opa }) rfl (do return bits64 (← mulStep r s.opa.toInt sc rm ov))
      refine ⟨_, p, rfl, runP, by omega, fun _ failed => absurd (succeed_err _ _) failed,
        fun _ _ => ⟨u, ?_, agree⟩⟩
      rw [State.succeed_res, reading, runU]

/-- Wrapping a factor before a multiplication changes nothing after the wrap (R150). -/
theorem bits64_wrap64_mul (x y : Int) : bits64 (wrap64 x * y) = bits64 (x * y) :=
  calc bits64 (wrap64 x * y) = bits64 (wrap64 x) * bits64 y := BitVec.ofInt_mul _ _
    _ = bits64 x * bits64 y := by rw [bits64_wrap64]
    _ = bits64 (x * y) := (BitVec.ofInt_mul _ _).symm

/-- The arbiter never fails when UNCHECKED: it answers the value's wrap, itself where the value fits. -/
theorem narrow64_unchecked (v : Int) : narrow64 v .unchecked = .ok (wrap64 v) := by
  obtain ⟨fits, e⟩ | ⟨_, _, e⟩ | ⟨_, h, _⟩ := narrow64_cases v .unchecked
  · rw [e, wrap64_of_fits64 fits]
  · exact e
  · cases h

/-- A division by 1 discards nothing (R147). -/
theorem roundDiv_one (n : Int) (rm : RoundMode) : roundDiv n 1 rm = .ok n := by
  have exactDivision : classify (n.natAbs % Int.natAbs 1) (Int.natAbs 1) = .zero :=
    (classify_eq_zero _ _).2 (Nat.mod_one _)
  have sign : negQuotient n 1 = true ↔ n < 0 := by rw [negQuotient_iff one_ne_zero]; simp
  rw [roundDiv_eq, exactDivision, roundAdj_zero, Except.map]
  simp only [sign, Int.natAbs_one, Nat.div_one, Nat.add_zero, Except.ok.injEq]
  split_ifs <;> omega

/-- At scale 0 the UNCHECKED multiplication is the product, wrapped. -/
theorem mulStep_unchecked_zero {x y : Int} (hx : fits64 x) (hy : fits64 y) (rm : RoundMode) :
    mulStep x y 0 rm .unchecked = .ok (wrap64 (x * y)) := by
  have unit : ((sf 0 : Nat) : Int) = 1 := rfl
  rw [mulStep_eq hx hy, unit, roundDiv_one, except_ok_bind, narrow64_unchecked]

/-- At scale 0 the UNCHECKED loop keeps the pattern of the exact product (R250). -/
theorem powSteps_unchecked_zero {a : Int} (ha : fits64 a) (rm : RoundMode) (k : Nat) {r : Int} (hr : fits64 r) :
    ∃ w, powSteps a 0 rm .unchecked k r = .ok w ∧ bits64 w = bits64 (r * a ^ k) := by
  induction k generalizing r with
  | zero => exact ⟨r, rfl, by rw [pow_zero, mul_one]⟩
  | succ k ih =>
    obtain ⟨w, run, pattern⟩ := ih (fits64_toInt (bits64 (r * a)))
    refine ⟨w, ?_, ?_⟩
    · rw [powSteps, mulStep_unchecked_zero hr ha, except_ok_bind, run]
    · rw [pattern, bits64_wrap64_mul, pow_succ', mul_assoc]

/-- Settles O48: by induction on the exponent, the loop's running value and the exact power have one pattern. -/
theorem uncheckedIntegerPowerWrapsOnce : Obligations.UncheckedIntegerPowerWrapsOnce := by
  intro rm s within
  refine ⟨_, ?_, succeed_succeeds s _⟩
  cases exponent : s.opb.toNat with
  | zero => rw [exec_pow_zero 0 rm .unchecked exponent, pow_zero, pow_zero]
  | succ k =>
    obtain ⟨w, run, pattern⟩ := powSteps_unchecked_zero (fits64_toInt s.opa) rm k (fits64_toInt s.opa)
    rw [exec_pow, powValue_within _ _ _ _ _ within, exponent, if_neg (Nat.succ_ne_zero k), Nat.add_sub_cancel, run,
      except_ok_bind, except_pure, finish_ok, pattern, pow_succ']

/-! ### `SQRT` -/

/-- With `k` digits of the root left to find and the root between `q` and `q + 2^k`, the recurrence ends with the
integer square root. -/
theorem isqrtDigits_bounds (n k q : Nat) (lo : q * q ≤ n) (hi : n < (q + 2 ^ k) * (q + 2 ^ k)) :
    isqrtDigits n k q * isqrtDigits n k q ≤ n ∧ n < (isqrtDigits n k q + 1) * (isqrtDigits n k q + 1) := by
  induction k generalizing q with
  | zero => exact ⟨lo, by simpa [isqrtDigits] using hi⟩
  | succ k ih =>
    rw [isqrtDigits]
    split_ifs with digit
    · exact ih _ digit (by rwa [add_assoc, ← two_mul, ← pow_succ'])
    · exact ih _ lo (not_le.1 digit)

/-- The model's root of `n` is the integer square root (R12). -/
theorem isqrt_bounds (n : Nat) : isqrt n * isqrt n ≤ n ∧ n < (isqrt n + 1) * (isqrt n + 1) := by
  refine isqrtDigits_bounds n _ 0 (Nat.zero_le _) ?_
  calc n < 2 ^ (Nat.log2 n + 1) := Nat.lt_log2_self
    _ ≤ 2 ^ ((Nat.log2 n / 2 + 1) + (Nat.log2 n / 2 + 1)) := Nat.pow_le_pow_right (by decide) (by omega)
    _ = (0 + 2 ^ (Nat.log2 n / 2 + 1)) * (0 + 2 ^ (Nat.log2 n / 2 + 1)) := by rw [Nat.zero_add, pow_add]

/-- The remainder of the integer root of a perfect square is 0. -/
theorem isSquare_iff_remainder {n q : Nat} (lo : q * q ≤ n) (hi : n < (q + 1) * (q + 1)) :
    IsSquare n ↔ n - q * q = 0 := by
  constructor
  · rintro ⟨m, rfl⟩
    have : q ≤ m := Nat.mul_self_le_mul_self_iff.1 lo
    have : m < q + 1 := Nat.mul_self_lt_mul_self_iff.1 hi
    obtain rfl : m = q := by omega
    exact Nat.sub_self _
  · exact fun exactRoot => ⟨q, by omega⟩

theorem rootClass_eq_zero (r q : Nat) : rootClass r q = .zero ↔ r = 0 := by
  unfold rootClass
  split_ifs <;> simp_all

/-- The selector's choice between the integer root `q` and `q + 1` is the mode's rounding of the root: a remainder of
at most `q` puts the root below the midpoint, a larger one above it (R256). -/
theorem rootRoundsTo_of_roundAdj {rm : RoundMode} {q r adj : Nat} (hr : r ≤ 2 * q)
    (h : roundAdj rm false (q % 2 == 1) (rootClass r q) = .ok adj) : RootRoundsTo rm (q * q + r) (q + adj) := by
  have pred_sq : q = 0 ∨ (q - 1) * (q - 1) < q * q := by
    obtain rfl | pos := Nat.eq_zero_or_pos q
    · exact .inl rfl
    · exact .inr (Nat.mul_self_lt_mul_self (by omega))
  have pred_mid : q = 0 ∨ (2 * q - 1) * (2 * q - 1) < 4 * (q * q) := by
    obtain rfl | pos := Nat.eq_zero_or_pos q
    · exact .inl rfl
    · exact .inr (calc _ < (2 * q) * (2 * q) := Nat.mul_self_lt_mul_self (by omega)
        _ = _ := by ring)
  have succ_sq : (q + 1) * (q + 1) = q * q + 2 * q + 1 := by ring
  have mid_sq : (2 * q + 1) * (2 * q + 1) = 4 * (q * q) + 4 * q + 1 := by ring
  have succ_mid : (2 * (q + 1) + 1) * (2 * (q + 1) + 1) = 4 * (q * q) + 12 * q + 9 := by ring
  have midpoint : 2 * (q + 1) - 1 = 2 * q + 1 := by omega
  unfold rootClass at h
  split_ifs at h with exactRoot below
  · obtain rfl : 0 = adj := by simpa using h
    cases rm <;> simp only [RootRoundsTo, Nat.add_zero, succ_sq, mid_sq] <;> omega
  · cases rm <;> simp [roundAdj] at h <;> subst h <;>
      simp only [RootRoundsTo, Nat.add_zero, Nat.add_sub_cancel, succ_sq, mid_sq] <;> omega
  · cases rm <;> simp [roundAdj] at h <;> subst h <;>
      simp only [RootRoundsTo, Nat.add_zero, Nat.add_sub_cancel, succ_sq, mid_sq, succ_mid, midpoint] <;> omega

/-- How the rounded root ends: with the mode's rounding, one above the integer root at most, or with RoundingRequired
where UNNECESSARY meets a number that is no square (R256). -/
theorem roundedRoot_spec (n : Nat) (rm : RoundMode) :
    (∃ v, roundedRoot n rm = .ok v ∧ RootRoundsTo rm n v ∧ v ≤ isqrt n + 1 ∧ ¬ (rm = .unnecessary ∧ ¬ IsSquare n))
      ∨ (roundedRoot n rm = .error .roundingRequired ∧ rm = .unnecessary ∧ ¬ IsSquare n) := by
  obtain ⟨lo, hi⟩ := isqrt_bounds n
  have square := isSquare_iff_remainder lo hi
  rw [square, ← rootClass_eq_zero _ (isqrt n)]
  generalize root : isqrt n = q at *
  have remainder : n - q * q ≤ 2 * q := by
    have : (q + 1) * (q + 1) = q * q + 2 * q + 1 := by ring
    omega
  cases selected : roundAdj rm false (q % 2 == 1) (rootClass (n - q * q) q) with
  | ok adj =>
    have value : roundedRoot n rm = .ok (q + adj) := by simp only [roundedRoot, root, selected]; rfl
    have rounding := rootRoundsTo_of_roundAdj remainder selected
    rw [Nat.add_sub_cancel' lo] at rounding
    refine .inl ⟨_, value, rounding, ?_, ?_⟩
    · rcases roundAdj_cases rm false (q % 2 == 1) (rootClass (n - q * q) q) with h | h | ⟨h, _⟩ <;>
        rw [h] at selected <;> cases selected <;> omega
    · rintro ⟨rfl, inexact⟩
      rw [roundAdj, if_neg inexact] at selected
      cases selected
  | error k =>
    have failed : roundedRoot n rm = .error k := by simp only [roundedRoot, root, selected]; rfl
    rcases roundAdj_cases rm false (q % 2 == 1) (rootClass (n - q * q) q) with h | h | ⟨h, undetermined⟩ <;>
      rw [h] at selected <;> cases selected
    exact .inr ⟨failed, undetermined⟩

theorem exec_sqrt (sc : Nat) (rm : RoundMode) (s : State) :
    exec (.sqrt sc rm) s = s.finish (
      if s.opa.toInt < 0 then .error .invalidOperand
      else do return bits64 (← roundedRoot (sMulSf s.opa.toInt sc).toNat rm)) := rfl

/-- Of an operand that is not negative, `SQRT` takes the root of `A × 10^s` (R256). -/
theorem exec_sqrt_nonneg {s : State} (nonneg : 0 ≤ s.opa.toInt) (sc : Nat) (rm : RoundMode) :
    exec (.sqrt sc rm) s
      = s.finish (do return BitVec.ofNat 64 (← roundedRoot (s.opa.toNat * 10 ^ sc) rm)) := by
  have reading : s.opa.toInt = s.opa.toNat := by
    have := s.opa.isLt
    rw [BitVec.toInt_eq_toNat_cond] at nonneg ⊢
    split_ifs at nonneg ⊢ <;> omega
  have radicand : (sMulSf s.opa.toInt sc).toNat = s.opa.toNat * 10 ^ sc := by
    rw [ScaleMetrics.sMulSf_eq sc (BitVec.le_toInt s.opa) (BitVec.toInt_lt (x := s.opa)), reading]
    exact_mod_cast Int.toNat_natCast (s.opa.toNat * 10 ^ sc)
  rw [exec_sqrt, if_neg (not_lt.2 nonneg), radicand]
  simp only [bits64, BitVec.ofInt_natCast]

/-- The root of a 64-bit number times a legal scale factor leaves room for a rounding up in 63 bits. -/
theorem isqrt_succ_lt {x sc : Nat} (hx : x < 2 ^ 64) (hsc : sc ≤ 18) : isqrt (x * 10 ^ sc) + 1 < 2 ^ 63 := by
  have radicand : x * 10 ^ sc < 2 ^ 62 * 2 ^ 62 :=
    calc x * 10 ^ sc < 2 ^ 64 * 2 ^ 60 := Nat.mul_lt_mul'' hx (ScaleMetrics.scaleFactor_lt hsc)
      _ = 2 ^ 62 * 2 ^ 62 := by decide
  have root := Nat.mul_self_lt_mul_self_iff.1 ((isqrt_bounds _).1.trans_lt radicand)
  omega

/-- Settles O49: the root of the exact radicand, rounded by the selector, is at most one above the integer root, which
is below 2^62. -/
theorem squareRootRoundsByTheMode : Obligations.SquareRootRoundsByTheMode := by
  intro sc rm s hsc
  refine ⟨fun nonneg => ?nonneg, fun neg => ?neg⟩
  case neg =>
    refine ⟨_, ?_, fail_fails s .invalidOperand⟩
    rw [exec_sqrt, if_pos neg, finish_error]
  case nonneg =>
    have room := isqrt_succ_lt s.opa.isLt hsc
    rw [exec_sqrt_nonneg nonneg]
    obtain ⟨v, value, rounding, near, determined⟩ | ⟨failed, undetermined⟩ :=
      roundedRoot_spec (s.opa.toNat * 10 ^ sc) rm
    · rw [value]
      exact ⟨fun _ => ⟨v, _, rounding, near.trans_lt room, rfl, succeed_succeeds s _⟩,
        fun undetermined => absurd undetermined determined⟩
    · rw [failed]
      obtain ⟨mode, noSquare⟩ := undetermined
      exact ⟨fun determined => absurd determined (by simp [mode, noSquare]),
        fun _ => ⟨_, rfl, fail_fails s .roundingRequired⟩⟩

end Sys2Proof.MultiplyDivide
end

section
/-! SUPPORT. Conversions to and from integers and decimals of another scale (spec/45_convert_integer_decimal.md R280 to
R300): a change of scale is the rounding of the exact rescaled value in either direction, a rounding lies between the
same integers as the exact value, and a range check answers by `fits64`. -/

namespace Sys2Proof.ConvertIntegerDecimal

open Sys2Proof.Machine Sys2Proof.Safety

/-! ### Roundings of a rational -/

/-- Does `y` answer the rounding of the exact value `x` by mode `rm`, and RoundingRequired where the mode gives none? -/
def AnswersRounding (rm : RoundMode) (x : ℚ) (y : Except FailKind Int) : Prop :=
  (∃ v, y = .ok v ∧ RoundsTo rm x v) ∨ (y = .error .roundingRequired ∧ ¬ Determined rm x)

/-- An integer is its own rounding, in every mode. -/
theorem roundsTo_self (rm : RoundMode) (k : Int) : RoundsTo rm (k : ℚ) k := by
  cases rm <;> simp [RoundsTo, mul_self_nonneg]

/-- A rounding is less than 1 away from the exact value. -/
theorem abs_sub_lt_one_of_roundsTo {rm : RoundMode} {x : ℚ} {v : Int} (h : RoundsTo rm x v) : |x - v| < 1 := by
  cases rm
  case unnecessary => simp [show x = v from h]
  case ceiling | floor =>
    obtain ⟨_, _⟩ := h
    rw [abs_lt]
    constructor <;> linarith
  case halfUp | halfDown | halfEven => obtain near | ⟨tie, _⟩ := h <;> linarith
  case up | down =>
    obtain ⟨outer, inner, sameSign⟩ := h
    rw [abs_lt]
    obtain ⟨hx, hv⟩ | ⟨hx, hv⟩ := mul_nonneg_iff.1 sameSign
    · rw [abs_of_nonneg hx, abs_of_nonneg hv] at outer inner
      constructor <;> linarith
    · rw [abs_of_nonpos hx, abs_of_nonpos hv] at outer inner
      constructor <;> linarith

/-- A rounding stays between the integers the exact value lies between. -/
theorem roundsTo_between {rm : RoundMode} {x : ℚ} {v lo hi : Int} (h : RoundsTo rm x v) (above : (lo : ℚ) ≤ x)
    (below : x ≤ hi) : lo ≤ v ∧ v ≤ hi := by
  obtain ⟨_, _⟩ := abs_lt.1 (abs_sub_lt_one_of_roundsTo h)
  have fromBelow : (lo : ℚ) < (v + 1 : Int) := by push_cast; linarith
  have fromAbove : (v : ℚ) < (hi + 1 : Int) := by push_cast; linarith
  exact ⟨Int.lt_add_one_iff.1 (by exact_mod_cast fromBelow), Int.lt_add_one_iff.1 (by exact_mod_cast fromAbove)⟩

/-- An exact value that is an integer is answered as it is, in every mode. -/
theorem AnswersRounding.eq_ok {rm : RoundMode} {k : Int} {y : Except FailKind Int} (h : AnswersRounding rm k y) :
    y = .ok k := by
  obtain ⟨v, answer, rounding⟩ | ⟨_, undetermined⟩ := h
  · obtain ⟨above, below⟩ := roundsTo_between rounding le_rfl le_rfl
    rw [answer, le_antisymm below above]
  · exact absurd (.inr ⟨k, rfl⟩) undetermined

/-- Division by a power of ten does not leave an interval around 0. -/
theorem div_scale_between {n lo hi : Int} (sc : Nat) (lo0 : lo ≤ 0) (hi0 : 0 ≤ hi) (above : lo ≤ n) (below : n ≤ hi) :
    (lo : ℚ) ≤ (n : ℚ) / 10 ^ sc ∧ (n : ℚ) / 10 ^ sc ≤ hi := by
  have positive : (0 : ℚ) < 10 ^ sc := by positivity
  have scale : (1 : Int) ≤ 10 ^ sc := one_le_pow₀ (by decide)
  rw [le_div_iff₀ positive, div_le_iff₀ positive]
  have low : lo * 10 ^ sc ≤ n := (mul_le_of_one_le_right lo0 scale).trans above
  have high : n ≤ hi * 10 ^ sc := below.trans (le_mul_of_one_le_right hi0 scale)
  exact ⟨by exact_mod_cast low, by exact_mod_cast high⟩

/-! ### Change of scale -/

/-- The rounded division by a scale factor (R146). -/
theorem roundDiv_scale_answersRounding (n : Int) (sc : Nat) (rm : RoundMode) :
    AnswersRounding rm ((n : ℚ) / 10 ^ sc) (roundDiv n (sf sc) rm) := by
  have spec := MultiplyDivide.roundDiv_spec (n := n) (MultiplyDivide.scaleFactor_ne_zero sc) rm
  rw [ScaleMetrics.sf_cast] at spec ⊢
  push_cast at spec
  exact spec

/-- Raising the scale is exact. -/
theorem rescale_widen (w : Int) {sc aux : Nat} (h : aux ≤ sc) :
    (w : ℚ) * 10 ^ sc / 10 ^ aux = ((w * 10 ^ (sc - aux) : Int) : ℚ) := by
  rw [mul_div_assoc, div_eq_mul_inv, ← pow_sub₀ _ (by norm_num) h]
  push_cast
  rfl

/-- Lowering the scale divides by the scale factor of the difference. -/
theorem rescale_narrow (w : Int) {sc aux : Nat} (h : sc ≤ aux) :
    (w : ℚ) * 10 ^ sc / 10 ^ aux = (w : ℚ) / 10 ^ (aux - sc) := by
  rw [div_eq_div_iff (by positivity) (by positivity), mul_assoc, ← pow_add, Nat.add_sub_cancel' h]

/-- A value of scale `aux` taken to scale `sc` is the mode's rounding of the exact rescaled value (R292). -/
theorem rescaleIn_answersRounding (w : Int) (sc aux : Nat) (rm : RoundMode) :
    AnswersRounding rm ((w : ℚ) * 10 ^ sc / 10 ^ aux) (rescaleIn w sc aux rm) := by
  unfold rescaleIn
  split_ifs with widening
  · rw [rescale_widen w widening, ScaleMetrics.sf_cast]
    exact .inl ⟨_, rfl, roundsTo_self rm _⟩
  · rw [rescale_narrow w (by omega)]
    exact roundDiv_scale_answersRounding w _ rm

/-- The scale multiplier is exact on a register, so the rescaling of R296 is that of R292 with the scales exchanged. -/
theorem rescaleOut_eq_rescaleIn (a : Word64) (sc aux : Nat) (rm : RoundMode) :
    rescaleOut a.toInt sc aux rm = rescaleIn a.toInt aux sc rm := by
  rw [rescaleOut, rescaleIn, ScaleMetrics.sMulSf_eq _ (BitVec.le_toInt a) (BitVec.toInt_lt (x := a)),
    ScaleMetrics.sf_cast, ScaleMetrics.sf_cast]

/-- A register taken from one legal scale to another fits 128 bits, the rounding included (R296). -/
theorem fits128_of_rescale (a : Word64) {sc aux : Nat} (haux : aux ≤ 18) {rm : RoundMode} {v : Int}
    (h : RoundsTo rm ((a.toInt : ℚ) * 10 ^ aux / 10 ^ sc) v) : fits128 v := by
  have lo : -2 ^ 63 ≤ a.toInt := BitVec.le_toInt a
  have hi : a.toInt < 2 ^ 63 := BitVec.toInt_lt
  have scale : (10 ^ aux : Int) < 2 ^ 60 := by exact_mod_cast ScaleMetrics.scaleFactor_lt haux
  have positive : (0 : Int) < 10 ^ aux := by positivity
  have above : -2 ^ 127 ≤ a.toInt * 10 ^ aux := by nlinarith
  have below : a.toInt * 10 ^ aux ≤ 2 ^ 127 - 1 := by nlinarith
  obtain ⟨low, high⟩ := div_scale_between sc (by decide) (by decide) above below
  exact roundsTo_between h (by exact_mod_cast low) (by exact_mod_cast high)

/-! ### How a conversion ends -/

/-- A command that ends with the conversions' range check succeeds with a value that fits 64 bits, and with no
other (R152). -/
theorem checks_range {i : Instr} {s : State} {v : Int}
    (ends : exec i s = s.finish (do return bits64 (← narrowAlways v))) :
    (fits64 v → ∃ t, exec i s = .next t ∧ Succeeds s t (BitVec.ofInt 64 v))
    ∧ (¬ fits64 v → ∃ t, exec i s = .next t ∧ Fails s t codeRangeOverflow) := by
  rw [ends]
  obtain ⟨fits, checked⟩ | ⟨wide, checked⟩ := narrowAlways_cases v <;> rw [checked]
  · exact ⟨fun _ => ⟨_, rfl, succeed_succeeds s _⟩, fun wide => absurd fits wide⟩
  · exact ⟨fun fits => absurd fits wide, fun _ => ⟨_, rfl, fail_fails s .rangeOverflow⟩⟩

/-- A command that rounds the exact value `x` and then checks the range; rounding fails first (R410). -/
theorem rounds_then_checks {i : Instr} {s : State} {rm : RoundMode} {x : ℚ} {y : Except FailKind Int}
    (answers : AnswersRounding rm x y)
    (ends : exec i s = s.finish (do let v ← y; return bits64 (← narrowAlways v))) :
    (Determined rm x →
      ∃ v, RoundsTo rm x v
        ∧ (fits64 v → ∃ t, exec i s = .next t ∧ Succeeds s t (BitVec.ofInt 64 v))
        ∧ (¬ fits64 v → ∃ t, exec i s = .next t ∧ Fails s t codeRangeOverflow))
    ∧ (¬ Determined rm x → ∃ t, exec i s = .next t ∧ Fails s t codeRoundingRequired) := by
  obtain ⟨v, rfl, rounding⟩ | ⟨rfl, undetermined⟩ := answers
  · exact ⟨fun _ => ⟨v, rounding, checks_range ends⟩,
      fun undetermined => absurd (MultiplyDivide.determined_of_roundsTo rounding) undetermined⟩
  · exact ⟨fun determined => absurd determined undetermined, fun _ => ⟨_, ends, fail_fails s .roundingRequired⟩⟩

/-- The two halves, joined, are the 128-bit pattern (R296). -/
theorem halves128_append (v : Int) : (halves128 v).1 ++ (halves128 v).2 = bits128 v :=
  BitVec.extractLsb'_append_extractLsb'

/-- The pair of halves reads back, signed, as the value that fits 128 bits. -/
theorem halves128_toInt {v : Int} (h : fits128 v) : ((halves128 v).1 ++ (halves128 v).2).toInt = v := by
  obtain ⟨lo, hi⟩ := h
  rw [halves128_append]
  exact BitVec.toInt_ofInt_eq_self (by decide) lo (Int.lt_of_le_sub_one hi)

/-! ### The commands -/

theorem exec_fromInt (sc : Nat) (s : State) :
    exec (.fromInt sc) s = s.finish (do return bits64 (← narrowAlways ((s.opb ++ s.opa).toInt * 10 ^ sc))) := by
  rw [← ScaleMetrics.sf_cast]
  rfl

theorem exec_toInt (sc : Nat) (rm : RoundMode) (s : State) :
    exec (.toInt sc rm) s = s.finish (do return bits64 (← roundDiv s.opa.toInt (sf sc) rm)) := rfl

theorem exec_fromDec (sc : Nat) (rm : RoundMode) (aux : Nat) (s : State) :
    exec (.fromDec sc rm aux) s
      = s.finish (do let v ← rescaleIn (s.opb ++ s.opa).toInt sc aux rm; return bits64 (← narrowAlways v)) := rfl

theorem exec_toDec (sc : Nat) (rm : RoundMode) (aux : Nat) (s : State) :
    exec (.toDec sc rm aux) s = s.finishWide (do return halves128 (← rescaleIn s.opa.toInt aux sc rm)) := by
  rw [← rescaleOut_eq_rescaleIn]
  rfl

/-- Settles O50: the row's bounds are those of the integers whose product with the scale factor fits. -/
theorem fromIntChecksTheIntegerBounds : Obligations.FromIntChecksTheIntegerBounds := by
  intro sc s hsc
  rw [← ScaleMetrics.metricsBoundsAreTheRepresentableIntegers sc _ hsc]
  exact checks_range (exec_fromInt sc s)

/-- Settles O51: division by the scale factor does not leave the range of the operand, nor does its rounding. -/
theorem toIntRoundsAndAlwaysFits : Obligations.ToIntRoundsAndAlwaysFits := by
  intro sc rm s
  rw [exec_toInt]
  obtain ⟨v, answer, rounding⟩ | ⟨failed, undetermined⟩ := roundDiv_scale_answersRounding s.opa.toInt sc rm
  · obtain ⟨lo, hi⟩ := MultiplyDivide.fits64_toInt s.opa
    obtain ⟨above, below⟩ := div_scale_between sc (by decide) (by decide) lo hi
    rw [answer]
    exact ⟨fun _ => ⟨v, rounding, roundsTo_between rounding above below, _, rfl, succeed_succeeds s _⟩,
      fun undetermined => absurd (MultiplyDivide.determined_of_roundsTo rounding) undetermined⟩
  · rw [failed]
    exact ⟨fun determined => absurd determined undetermined, fun _ => ⟨_, rfl, fail_fails s .roundingRequired⟩⟩

/-- Settles O52: the rescaled value is the rounding of the exact one, and the range check comes after. -/
theorem fromDecRescalesThenChecks : Obligations.FromDecRescalesThenChecks :=
  fun sc aux rm s => rounds_then_checks (rescaleIn_answersRounding _ sc aux rm) (exec_fromDec sc rm aux s)

/-- Settles O53: the rescaled register fits 128 bits, so the two halves read back as the rounding. -/
theorem toDecGivesTheWideResult : Obligations.ToDecGivesTheWideResult := by
  intro sc aux rm s _ haux
  rw [exec_toDec]
  obtain ⟨v, answer, rounding⟩ | ⟨failed, undetermined⟩ := rescaleIn_answersRounding s.opa.toInt aux sc rm
  · rw [answer]
    exact ⟨fun _ => ⟨v, _, _, _, rounding, rfl, succeedWide_succeeds s _ _,
        halves128_toInt (fits128_of_rescale s.opa haux rounding)⟩,
      fun undetermined => absurd (MultiplyDivide.determined_of_roundsTo rounding) undetermined⟩
  · rw [failed]
    exact ⟨fun determined => absurd determined undetermined, fun _ => ⟨_, rfl, fail_fails s .roundingRequired⟩⟩

/-- At a scale not below its own a register is sent out exactly, for all modes, and the pair reads back as the
widened value (R296). -/
theorem exec_toDec_widening (s : State) {sc aux : Nat} (h : sc ≤ aux) (haux : aux ≤ 18) (rm : RoundMode) :
    ∃ hi lo, exec (.toDec sc rm aux) s = .next (s.succeedWide hi lo)
      ∧ (hi ++ lo).toInt = s.opa.toInt * 10 ^ (aux - sc) := by
  have exactValue := rescale_widen s.opa.toInt h
  have answers := rescaleIn_answersRounding s.opa.toInt aux sc rm
  rw [exactValue] at answers
  rw [exec_toDec, answers.eq_ok]
  exact ⟨_, _, rfl, halves128_toInt (fits128_of_rescale s.opa haux (exactValue ▸ roundsTo_self rm _))⟩

/-- A widened register comes back from the larger scale exactly, for all modes (R292). -/
theorem rescaleIn_widened (a : Int) {sc aux : Nat} (h : sc ≤ aux) (rm : RoundMode) :
    rescaleIn (a * 10 ^ (aux - sc)) sc aux rm = .ok a := by
  have exactValue : ((a * 10 ^ (aux - sc) : Int) : ℚ) * 10 ^ sc / 10 ^ aux = a := by
    rw [← rescale_widen a h, div_mul_cancel₀ _ (by positivity), mul_div_cancel_right₀ _ (by positivity)]
  exact (exactValue ▸ rescaleIn_answersRounding (a * 10 ^ (aux - sc)) sc aux rm).eq_ok

/-- Settles O54: the pair holds the widened value exactly, and the way back divides it by the factor it was widened
by. -/
theorem decimalRoundTripIsExact : Obligations.DecimalRoundTripIsExact := by
  intro sc aux rm rm' s h haux
  obtain ⟨hi, lo, sent, reading⟩ := exec_toDec_widening s h haux rm'
  refine ⟨_, sent, withErr_mod _ _, fun same => ?ownScale, _, ?back, succeed_succeeds _ _⟩
  case ownScale => simpa [same] using reading
  case back =>
    obtain ⟨fits, checked⟩ | ⟨wide, _⟩ := narrowAlways_cases s.opa.toInt
    · rw [exec_fromDec, State.succeedWide_res, State.succeedWide_resh, reading, rescaleIn_widened _ h, except_ok_bind,
        checked, except_ok_bind, except_pure, finish_ok, MultiplyDivide.bits64_toInt]
    · exact absurd (MultiplyDivide.fits64_toInt s.opa) wide

end Sys2Proof.ConvertIntegerDecimal
end

section
/-! SUPPORT. Conversions to and from floating-point patterns (spec/46_convert_float.md R320 to R340): the decoded fields
of a pattern are the number it denotes, the exponent found from bit lengths is that of the binade, and the significand
is a rounded division whose pattern, carry included, denotes the rounding. -/

namespace Sys2Proof.ConvertFloat

open Sys2Proof.Machine Sys2Proof.Safety

/-! ### Reading a pattern -/

theorem slice_single_bit (p k : Nat) : slice p k k = p / 2 ^ k % 2 := by
  rw [slice, Nat.add_sub_cancel_left, pow_one]

/-- The exponent field, above the fraction and below the sign (R321). -/
theorem slice_exponent {f : FloatFormat} (ew : 0 < f.ew) (p : Nat) :
    slice p (f.ew + f.fw - 1) f.fw = p / 2 ^ f.fw % 2 ^ f.ew := by
  rw [slice, show f.ew + f.fw - 1 + 1 - f.fw = f.ew by omega]

theorem slice_fraction {f : FloatFormat} (fw : 0 < f.fw) (p : Nat) : slice p (f.fw - 1) 0 = p % 2 ^ f.fw := by
  rw [slice, pow_zero, Nat.div_one, Nat.sub_add_cancel fw, Nat.sub_zero]

theorem bias_cast (f : FloatFormat) : (f.bias : Int) = 2 ^ (f.ew - 1) - 1 := by
  rw [FloatFormat.bias, Nat.cast_sub Nat.one_le_two_pow]
  push_cast
  rfl

/-- The number `(−1)^S × m × 2^e` (R322). -/
def dyadicValue (x : Machine.Dyadic) : ℚ := (if x.neg then -1 else 1) * x.m * 2 ^ x.e

/-- A pattern is decoded exactly when it is finite, and then to the number it denotes (R322). -/
theorem fDecode_spec {f : FloatFormat} (ew : 0 < f.ew) (fw : 0 < f.fw) (p : Nat) :
    (¬ FinitePattern f.ew f.fw p ∧ fDecode p f = none)
      ∨ (FinitePattern f.ew f.fw p ∧ ∃ x, fDecode p f = some x ∧ dyadicValue x = patternValue f.ew f.fw p) := by
  simp only [fDecode, slice_single_bit, slice_exponent ew, slice_fraction fw]
  split_ifs with special subnormal
  · exact .inl ⟨not_not.2 special, rfl⟩
  · refine .inr ⟨special, _, rfl, ?_⟩
    simp [dyadicValue, patternValue, subnormal, bias_cast]
  · refine .inr ⟨special, _, rfl, ?_⟩
    simp [dyadicValue, patternValue, subnormal, bias_cast]

/-- A power of two with an integer exponent, as the model computes it: in the numerator or in the denominator. -/
theorem two_zpow_cases (e : Int) :
    (0 ≤ e ∧ (2 : ℚ) ^ e = 2 ^ e.toNat) ∨ (¬ 0 ≤ e ∧ (2 : ℚ) ^ e = (2 ^ (-e).toNat)⁻¹) := by
  obtain neg | nonneg := Int.lt_or_le e 0
  · refine .inr ⟨not_le.2 neg, ?_⟩
    rw [← zpow_natCast, Int.toNat_of_nonneg (by omega), zpow_neg, inv_inv]
  · refine .inl ⟨nonneg, ?_⟩
    rw [← zpow_natCast, Int.toNat_of_nonneg nonneg]

theorem scaled_divisor_ne_zero (x : Machine.Dyadic) (sc : Nat) : (x.scaled sc).2 ≠ 0 := by
  simp only [Machine.Dyadic.scaled]
  split_ifs <;> positivity

/-- The fraction of R324 is the exact value times the scale factor. -/
theorem scaled_quotient (x : Machine.Dyadic) (sc : Nat) :
    ((x.scaled sc).1 : ℚ) / (x.scaled sc).2 = dyadicValue x * 10 ^ sc := by
  obtain ⟨sign, power⟩ | ⟨sign, power⟩ := two_zpow_cases x.e <;>
    cases neg : x.neg <;> simp [Machine.Dyadic.scaled, dyadicValue, sign, power, neg] <;> ring

/-- A finite pattern is converted by rounding the exact value times the scale factor, then checking the range
(R324). -/
theorem floatToUnscaled_spec {f : FloatFormat} (ew : 0 < f.ew) (fw : 0 < f.fw) (p sc : Nat) (rm : RoundMode) :
    (¬ FinitePattern f.ew f.fw p ∧ floatToUnscaled p f sc rm = .error .invalidOperand)
      ∨ (FinitePattern f.ew f.fw p ∧ ∃ y, floatToUnscaled p f sc rm = y >>= narrowAlways
        ∧ ConvertIntegerDecimal.AnswersRounding rm (patternValue f.ew f.fw p * 10 ^ sc) y) := by
  obtain ⟨special, decoded⟩ | ⟨finite, x, decoded, value⟩ := fDecode_spec ew fw p
  · exact .inl ⟨special, by rw [floatToUnscaled, decoded]⟩
  · refine .inr ⟨finite, _, by rw [floatToUnscaled, decoded], ?_⟩
    rw [← value, ← scaled_quotient]
    exact MultiplyDivide.roundDiv_spec (scaled_divisor_ne_zero x sc) rm

/-- A command that ends with the conversion of a pattern, in the terms of Safety. -/
theorem converts_pattern {f : FloatFormat} (ew : 0 < f.ew) (fw : 0 < f.fw) {i : Instr} {s : State} {p sc : Nat}
    {rm : RoundMode} (ends : exec i s = s.finish (do return bits64 (← floatToUnscaled p f sc rm))) :
    (¬ FinitePattern f.ew f.fw p → ∃ t, exec i s = .next t ∧ Fails s t codeInvalidOperand)
    ∧ (FinitePattern f.ew f.fw p →
      (Determined rm (patternValue f.ew f.fw p * 10 ^ sc) →
        ∃ v, RoundsTo rm (patternValue f.ew f.fw p * 10 ^ sc) v
          ∧ (fits64 v → ∃ t, exec i s = .next t ∧ Succeeds s t (BitVec.ofInt 64 v))
          ∧ (¬ fits64 v → ∃ t, exec i s = .next t ∧ Fails s t codeRangeOverflow))
      ∧ (¬ Determined rm (patternValue f.ew f.fw p * 10 ^ sc) →
        ∃ t, exec i s = .next t ∧ Fails s t codeRoundingRequired)) := by
  obtain ⟨special, failed⟩ | ⟨finite, y, converted, answers⟩ := floatToUnscaled_spec ew fw p sc rm
  · rw [failed] at ends
    exact ⟨fun _ => ⟨_, ends, fail_fails s .invalidOperand⟩, fun finite => absurd finite special⟩
  · rw [converted, bind_assoc] at ends
    exact ⟨fun special => absurd finite special, fun _ => ConvertIntegerDecimal.rounds_then_checks answers ends⟩

theorem exec_fromDbl (sc : Nat) (rm : RoundMode) (s : State) :
    exec (.fromDbl sc rm) s = s.finish (do return bits64 (← floatToUnscaled s.opa.toNat double sc rm)) := rfl

theorem exec_fromFlt (sc : Nat) (rm : RoundMode) (s : State) :
    exec (.fromFlt sc rm) s
      = s.finish (do return bits64 (← floatToUnscaled (s.opa.toNat % 2 ^ 32) single sc rm)) := by
  rw [← ScaleMetrics.aLow_eq]
  rfl

/-- Settles O55: the pattern is the whole of `OPA`. -/
theorem fromDoubleRoundsTheExactValue : Obligations.FromDoubleRoundsTheExactValue :=
  fun sc rm s => converts_pattern (f := double) (by decide) (by decide) (exec_fromDbl sc rm s)

/-- Settles O56: the pattern is the low half of `OPA`. -/
theorem fromFloatRoundsTheExactValue : Obligations.FromFloatRoundsTheExactValue :=
  fun sc rm s => converts_pattern (f := single) (by decide) (by decide) (exec_fromFlt sc rm s)

/-! ### The binade of a quotient -/

theorem ratioAtLeast_iff {F : Nat} (pos : 0 < F) (n : Nat) (e : Int) :
    ratioAtLeast n F e = true ↔ (2 : ℚ) ^ e ≤ (n : ℚ) / F := by
  have positive : (0 : ℚ) < F := by exact_mod_cast pos
  rw [le_div_iff₀ positive]
  obtain ⟨sign, power⟩ | ⟨sign, power⟩ := two_zpow_cases e
  · rw [ratioAtLeast, if_pos sign, decide_eq_true_iff, power, mul_comm]
    norm_cast
  · rw [ratioAtLeast, if_neg sign, decide_eq_true_iff, power, inv_mul_le_iff₀ (by positivity), mul_comm n]
    norm_cast

/-- `2^(bitlen(n) − 1) ≤ n < 2^bitlen(n)` (R12). -/
theorem bitlen_bounds {n : Nat} (pos : 0 < n) :
    (2 : ℚ) ^ ((bitlen n : Int) - 1) ≤ n ∧ (n : ℚ) < 2 ^ (bitlen n : Int) := by
  have length : bitlen n = Nat.log2 n + 1 := if_neg pos.ne'
  rw [length, Nat.cast_succ, add_sub_cancel_right, ← Nat.cast_succ, zpow_natCast, zpow_natCast]
  exact ⟨by exact_mod_cast Nat.log2_self_le pos.ne', by exact_mod_cast Nat.lt_log2_self⟩

/-- Is `2^e` the largest power of two not above `y`? -/
def InBinade (y : ℚ) (e : Int) : Prop := (2 : ℚ) ^ e ≤ y ∧ y < (2 : ℚ) ^ (e + 1)

/-- The exponent that R330 looks for, found from the bit lengths (log 10). -/
theorem ratioExponent_inBinade {n F : Nat} (hn : 0 < n) (hF : 0 < F) :
    InBinade ((n : ℚ) / F) (ratioExponent n F) := by
  have positive : (0 : ℚ) < F := by exact_mod_cast hF
  obtain ⟨n_lo, n_hi⟩ := bitlen_bounds hn
  obtain ⟨F_lo, F_hi⟩ := bitlen_bounds hF
  have above : (2 : ℚ) ^ ((bitlen n : Int) - bitlen F - 1) ≤ n / F := by
    rw [le_div_iff₀ positive]
    calc (2 : ℚ) ^ ((bitlen n : Int) - bitlen F - 1) * F
        ≤ 2 ^ ((bitlen n : Int) - bitlen F - 1) * 2 ^ (bitlen F : Int) := by gcongr
      _ = 2 ^ ((bitlen n : Int) - 1) := by rw [← zpow_add₀ two_ne_zero]; ring_nf
      _ ≤ n := n_lo
  have below : (n : ℚ) / F < 2 ^ ((bitlen n : Int) - bitlen F + 1) := by
    rw [div_lt_iff₀ positive]
    calc (n : ℚ) < 2 ^ (bitlen n : Int) := n_hi
      _ = 2 ^ ((bitlen n : Int) - bitlen F + 1) * 2 ^ ((bitlen F : Int) - 1) := by
        rw [← zpow_add₀ two_ne_zero]; ring_nf
      _ ≤ 2 ^ ((bitlen n : Int) - bitlen F + 1) * F := by gcongr
  have atLeast := ratioAtLeast_iff hF n ((bitlen n : Int) - bitlen F)
  rw [ratioExponent]
  split_ifs with reached
  · exact ⟨atLeast.1 reached, below⟩
  · exact ⟨above, by rw [sub_add_cancel]; exact not_le.1 fun h => reached (atLeast.2 h)⟩

/-- The binade of a number between two powers of two. -/
theorem InBinade.exponent_bounds {y : ℚ} {e lo hi : Int} (h : InBinade y e) (above : (2 : ℚ) ^ lo ≤ y)
    (below : y < (2 : ℚ) ^ hi) : lo ≤ e ∧ e < hi := by
  obtain ⟨from_e, to_e⟩ := h
  have low : lo < e + 1 := (zpow_lt_zpow_iff_right₀ one_lt_two).1 (above.trans_lt to_e)
  have high : e < hi := (zpow_lt_zpow_iff_right₀ one_lt_two).1 (from_e.trans_lt below)
  exact ⟨Int.lt_add_one_iff.1 low, high⟩

/-- A register other than 0 at a legal scale lies between 2^(−60) and 2^64, far inside the normal range of both formats
(R330). -/
theorem exponent_bounds_of_register {x : Int} {sc : Nat} {e : Int} (x0 : x ≠ 0) (hx : fits64 x) (hsc : sc ≤ 18)
    (h : InBinade |(x : ℚ) / 10 ^ sc| e) : -60 ≤ e ∧ e < 64 := by
  have positive : (0 : ℚ) < 10 ^ sc := by positivity
  have magnitude : |(x : ℚ) / 10 ^ sc| = |(x : ℚ)| / 10 ^ sc := by rw [abs_div, abs_of_pos positive]
  have scale : (10 : ℚ) ^ sc ≤ 2 ^ 60 := by exact_mod_cast (ScaleMetrics.scaleFactor_lt hsc).le
  have scale_one : (1 : ℚ) ≤ 10 ^ sc := one_le_pow₀ (by norm_num)
  have x_one : (1 : ℚ) ≤ |(x : ℚ)| := by exact_mod_cast Int.one_le_abs x0
  have x_lt : |(x : ℚ)| < 2 ^ 64 := by
    simp only [fits64, int64Min, int64Max] at hx
    have word : |x| < 2 ^ 64 := abs_lt.2 (by omega)
    exact_mod_cast word
  rw [magnitude] at h
  refine h.exponent_bounds ?_ ?_
  · rw [le_div_iff₀ positive]
    calc (2 : ℚ) ^ (-60 : Int) * 10 ^ sc ≤ (2 : ℚ) ^ (-60 : Int) * 2 ^ 60 := by gcongr
      _ = 1 := by norm_num
      _ ≤ |(x : ℚ)| := x_one
  · rw [div_lt_iff₀ positive]
    calc |(x : ℚ)| < 2 ^ 64 := x_lt
      _ = (2 : ℚ) ^ (64 : Int) * 1 := by norm_num
      _ ≤ (2 : ℚ) ^ (64 : Int) * 10 ^ sc := by gcongr

/-! ### Writing a pattern -/

/-- Is `P` a pattern of the format, finite and normal, that denotes `y` (R322)? -/
structure NormalPattern (f : FloatFormat) (P : Nat) (y : ℚ) : Prop where
  width : P < 2 ^ (f.ew + f.fw + 1)
  finite : FinitePattern f.ew f.fw P
  normal : 0 < P / 2 ^ f.fw % 2 ^ f.ew
  value : patternValue f.ew f.fw P = y

/-- Fields that do not overlap are added by OR at their places. -/
theorem packed_fields_eq {f : FloatFormat} {S E F : Nat} (hE : E < 2 ^ f.ew) (hF : F < 2 ^ f.fw) :
    S <<< (f.ew + f.fw) ||| E <<< f.fw ||| F = 2 ^ f.fw * (2 ^ f.ew * S + E) + F := by
  rw [Nat.shiftLeft_add, ← Nat.shiftLeft_or_distrib, ← Nat.shiftLeft_add_eq_or_of_lt hF,
    ← Nat.shiftLeft_add_eq_or_of_lt hE, Nat.shiftLeft_eq, Nat.shiftLeft_eq, mul_comm, mul_comm S]

/-- The fields of R321 read back from their sum. -/
theorem packed_fields_read {f : FloatFormat} {S E F P : Nat} (hS : S < 2) (hE : E < 2 ^ f.ew) (hF : F < 2 ^ f.fw)
    (hP : P = 2 ^ f.fw * (2 ^ f.ew * S + E) + F) :
    P < 2 ^ (f.ew + f.fw + 1) ∧ P / 2 ^ (f.ew + f.fw) % 2 = S ∧ P / 2 ^ f.fw % 2 ^ f.ew = E ∧ P % 2 ^ f.fw = F := by
  have upper : P / 2 ^ f.fw = 2 ^ f.ew * S + E := by
    rw [hP, Nat.mul_add_div (by positivity), Nat.div_eq_of_lt hF, Nat.add_zero]
  have sign : P / 2 ^ (f.ew + f.fw) = S := by
    rw [add_comm f.ew, pow_add, ← Nat.div_div_eq_div_mul, upper, Nat.mul_add_div (by positivity),
      Nat.div_eq_of_lt hE, Nat.add_zero]
  refine ⟨?_, by rw [sign, Nat.mod_eq_of_lt hS], by rw [upper, Nat.mul_add_mod, Nat.mod_eq_of_lt hE],
    by rw [hP, Nat.mul_add_mod, Nat.mod_eq_of_lt hF]⟩
  rw [pow_succ', ← Nat.div_lt_iff_lt_mul (by positivity), sign]
  exact hS

theorem two_pow_ew {f : FloatFormat} (ew : 0 < f.ew) : 2 ^ f.ew = 2 * (f.bias + 1) := by
  rw [FloatFormat.bias, Nat.sub_add_cancel Nat.one_le_two_pow, ← pow_succ', Nat.sub_add_cancel ew]

/-- A significand without a carry out, at an exponent of the normal range, is written as the number it stands for. -/
theorem floatPattern_of_lt {f : FloatFormat} (ew : 0 < f.ew) (neg : Bool) {e : Int} {sig : Nat}
    (e_lo : -f.bias < e) (e_hi : e ≤ f.bias) (sig_lo : 2 ^ f.fw ≤ sig) (sig_hi : sig < 2 ^ (f.fw + 1)) :
    NormalPattern f (floatPattern neg e sig f) ((if neg then -1 else 1) * sig * 2 ^ (e - f.fw)) := by
  have range := two_pow_ew ew
  have hE : (e + f.bias).toNat < 2 ^ f.ew := by omega
  have hF : sig - 2 ^ f.fw < 2 ^ f.fw := by omega
  have hS : (if neg then 1 else 0) < 2 := by split_ifs <;> decide
  have packed : floatPattern neg e sig f
      = 2 ^ f.fw * (2 ^ f.ew * (if neg then 1 else 0) + (e + f.bias).toNat) + (sig - 2 ^ f.fw) := by
    rw [← packed_fields_eq hE hF]
    simp [floatPattern, FloatFormat.prec, sig_hi.ne]
  obtain ⟨width, sign, expo, frac⟩ := packed_fields_read hS hE hF packed
  refine ⟨width, ?_, ?_, ?_⟩
  · rw [FinitePattern, expo]; omega
  · rw [expo]; omega
  · have normal : ¬ (e + f.bias).toNat = 0 := by omega
    have exponent : ((e + f.bias).toNat : Int) - f.bias - f.fw = e - f.fw := by omega
    simp only [patternValue, sign, expo, frac, if_neg normal, ← bias_cast, exponent]
    rw [Nat.cast_sub sig_lo]
    cases neg <;> simp

/-- A carry out of the significand raises the exponent (R330). -/
theorem floatPattern_carry (neg : Bool) (e : Int) (f : FloatFormat) :
    floatPattern neg e (2 ^ (f.fw + 1)) f = floatPattern neg (e + 1) (2 ^ f.fw) f := by
  have distinct : 2 ^ f.fw ≠ 2 ^ (f.fw + 1) := (Nat.pow_lt_pow_right (by decide) (by omega)).ne
  simp [floatPattern, FloatFormat.prec, distinct]

/-- The significand `2^(FW + 1)`, which rounding up can give, included. -/
theorem floatPattern_normal {f : FloatFormat} (ew : 0 < f.ew) (neg : Bool) {e : Int} {sig : Nat}
    (e_lo : -f.bias < e) (e_hi : e < f.bias) (sig_lo : 2 ^ f.fw ≤ sig) (sig_hi : sig ≤ 2 ^ (f.fw + 1)) :
    NormalPattern f (floatPattern neg e sig f) ((if neg then -1 else 1) * sig * 2 ^ (e - f.fw)) := by
  obtain below | rfl := sig_hi.lt_or_eq
  · exact floatPattern_of_lt ew neg e_lo e_hi.le sig_lo below
  · have carried := floatPattern_of_lt ew neg (e := e + 1) (by omega) (by omega) (le_refl (2 ^ f.fw))
      (Nat.pow_lt_pow_right (by decide) (by omega))
    have same : ((2 ^ f.fw : Nat) : ℚ) * 2 ^ (e + 1 - f.fw) = (2 ^ (f.fw + 1) : Nat) * 2 ^ (e - f.fw) := by
      rw [add_sub_right_comm, zpow_add_one₀ two_ne_zero]
      push_cast
      ring
    rw [floatPattern_carry, mul_assoc, ← same, ← mul_assoc]
    exact carried

/-! ### One rounding, at the last place -/

/-- The signed dividend of the significand, scaled up by `2^k` (R330). -/
def significandDividend (x k : Int) : Int := if 0 ≤ k then x * 2 ^ k.toNat else x

/-- Its divisor, scaled up where `k` is negative (R330). -/
def significandDivisor (sc : Nat) (k : Int) : Nat := if 0 ≤ k then sf sc else sf sc * 2 ^ (-k).toNat

theorem significandDivisor_ne_zero (sc : Nat) (k : Int) : ((significandDivisor sc k : Nat) : Int) ≠ 0 := by
  unfold significandDivisor
  split_ifs <;> positivity

theorem significand_quotient (x : Int) (sc : Nat) (k : Int) :
    (significandDividend x k : ℚ) / ((significandDivisor sc k : Nat) : Int) = (x : ℚ) / 10 ^ sc * 2 ^ k := by
  obtain ⟨sign, power⟩ | ⟨sign, power⟩ := two_zpow_cases k
  · rw [significandDividend, significandDivisor, if_pos sign, if_pos sign, power]
    push_cast
    ring
  · rw [significandDividend, significandDivisor, if_neg sign, if_neg sign, power]
    push_cast
    field_simp

theorem natAbs_significandDividend (x k : Int) :
    (significandDividend x k).natAbs = if 0 ≤ k then x.natAbs * 2 ^ k.toNat else x.natAbs := by
  unfold significandDividend
  split_ifs <;> simp [Int.natAbs_mul, Int.natAbs_pow]

/-- The quotient of R330 has the sign of `x`. -/
theorem negQuotient_significand (x : Int) (sc : Nat) (k : Int) :
    negQuotient (significandDividend x k) (significandDivisor sc k) = decide (x < 0) := by
  have positive : (0 : ℚ) < 2 ^ k / 10 ^ sc := by positivity
  rw [Bool.eq_iff_iff, MultiplyDivide.negQuotient_iff (significandDivisor_ne_zero sc k), significand_quotient,
    decide_eq_true_iff, div_mul_eq_mul_div, mul_div_assoc, ← not_le,
    mul_nonneg_iff_of_pos_right positive, not_le]
  exact Int.cast_lt_zero

/-- The significand is the magnitude of a rounded division: R330 is R146 at the last place. -/
theorem unscaledToFloat_eq {x : Int} (x0 : x ≠ 0) {sc : Nat} {e : Int} (he : ratioExponent x.natAbs (sf sc) = e)
    (rm : RoundMode) (f : FloatFormat) :
    unscaledToFloat x sc rm f =
      (roundDiv (significandDividend x (f.fw - e)) (significandDivisor sc (f.fw - e)) rm).map fun m =>
        floatPattern (decide (x < 0)) e m.natAbs f := by
  have places : (f.prec : Int) - 1 - e = f.fw - e := by rw [FloatFormat.prec]; omega
  rw [MultiplyDivide.roundDiv_eq, negQuotient_significand, Int.natAbs_natCast]
  simp only [unscaledToFloat, if_neg x0, he, places, uDivRem]
  rw [← natAbs_significandDividend, ← significandDivisor]
  cases roundAdj rm (decide (x < 0)) _ _ with
  | error k => rfl
  | ok adj =>
    simp only [except_ok_bind, except_pure, Except.map]
    cases decide (x < 0)
    · rw [if_neg Bool.false_ne_true, Int.natAbs_natCast]
    · rw [if_pos rfl, Int.natAbs_neg, Int.natAbs_natCast]

/-- The exact value scaled to the last place lies between `2^FW` and `2^(FW + 1)`, so its rounding does, on the same
side of 0. -/
theorem significand_bounds {X : ℚ} {e m : Int} {fw : Nat} {rm : RoundMode} (binade : InBinade |X| e)
    (rounding : RoundsTo rm (X * 2 ^ ((fw : Int) - e)) m) :
    2 ^ fw ≤ m.natAbs ∧ m.natAbs ≤ 2 ^ (fw + 1) ∧ (if X < 0 then (-1 : ℚ) else 1) * m.natAbs = m := by
  obtain ⟨from_e, to_e⟩ := binade
  have place : (0 : ℚ) < 2 ^ ((fw : Int) - e) := by positivity
  have above : (2 : ℚ) ^ fw ≤ |X| * 2 ^ ((fw : Int) - e) :=
    calc (2 : ℚ) ^ fw = 2 ^ e * 2 ^ ((fw : Int) - e) := by
          rw [← zpow_add₀ two_ne_zero, add_sub_cancel, zpow_natCast]
      _ ≤ _ := by gcongr
  have below : |X| * 2 ^ ((fw : Int) - e) ≤ (2 : ℚ) ^ (fw + 1) :=
    calc |X| * 2 ^ ((fw : Int) - e) ≤ 2 ^ (e + 1) * 2 ^ ((fw : Int) - e) := by gcongr
      _ = (2 : ℚ) ^ (fw + 1) := by
          rw [← zpow_add₀ two_ne_zero, ← zpow_natCast]
          congr 1
          push_cast
          ring
  have positive : (0 : Int) < 2 ^ fw := by positivity
  zify
  rw [Nat.cast_natAbs]
  obtain neg | nonneg := lt_or_ge X 0
  · rw [abs_of_neg neg, neg_mul] at above below
    obtain ⟨lo, hi⟩ := ConvertIntegerDecimal.roundsTo_between rounding (lo := -2 ^ (fw + 1)) (hi := -2 ^ fw)
      (by push_cast; linarith) (by push_cast; linarith)
    rw [if_pos neg, abs_of_neg (by linarith)]
    exact ⟨by linarith, by linarith, by push_cast; ring⟩
  · rw [abs_of_nonneg nonneg] at above below
    obtain ⟨lo, hi⟩ := ConvertIntegerDecimal.roundsTo_between rounding (lo := 2 ^ fw) (hi := 2 ^ (fw + 1))
      (by push_cast; exact above) (by push_cast; exact below)
    rw [if_neg (not_lt.2 nonneg), abs_of_pos (by linarith)]
    exact ⟨lo, hi, one_mul _⟩

/-- The conversion of a register other than 0 at a legal scale, to a format of at least the range of binary32: one
rounding of the exact value at the last place of the significand, written as a normal pattern (R330). -/
theorem unscaledToFloat_spec {f : FloatFormat} (ew : 0 < f.ew) (bias : 64 ≤ f.bias) {x : Int} (x0 : x ≠ 0)
    (hx : fits64 x) {sc : Nat} (hsc : sc ≤ 18) (rm : RoundMode) :
    ∃ e, InBinade |(x : ℚ) / 10 ^ sc| e ∧
      ((∃ m P, unscaledToFloat x sc rm f = .ok P ∧ RoundsTo rm ((x : ℚ) / 10 ^ sc * 2 ^ ((f.fw : Int) - e)) m
          ∧ NormalPattern f P (m * 2 ^ (e - f.fw)))
        ∨ (unscaledToFloat x sc rm f = .error .roundingRequired
          ∧ ¬ Determined rm ((x : ℚ) / 10 ^ sc * 2 ^ ((f.fw : Int) - e)))) := by
  have binade := ratioExponent_inBinade (Int.natAbs_pos.2 x0) (F := sf sc) (by positivity)
  have magnitude : (x.natAbs : ℚ) / (sf sc : Nat) = |(x : ℚ) / 10 ^ sc| := by
    rw [abs_div, abs_of_pos (by positivity : (0 : ℚ) < 10 ^ sc), Nat.cast_natAbs, Int.cast_abs, Nat.cast_pow]
    rfl
  rw [magnitude] at binade
  generalize exponent : ratioExponent x.natAbs (sf sc) = e at *
  rw [unscaledToFloat_eq x0 exponent]
  obtain ⟨e_lo, e_hi⟩ := exponent_bounds_of_register x0 hx hsc binade
  refine ⟨e, binade, ?_⟩
  have spec := MultiplyDivide.roundDiv_spec (n := significandDividend x (f.fw - e))
    (significandDivisor_ne_zero sc (f.fw - e)) rm
  rw [significand_quotient] at spec
  obtain ⟨m, answer, rounding⟩ | ⟨failed, undetermined⟩ := spec
  · obtain ⟨sig_lo, sig_hi, sign⟩ := significand_bounds binade rounding
    have pattern := floatPattern_normal ew (decide (x < 0)) (e := e) (by omega) (by omega) sig_lo sig_hi
    have negative : (x : ℚ) / 10 ^ sc < 0 ↔ x < 0 := by
      rw [div_lt_iff₀ (by positivity), zero_mul]
      exact Int.cast_lt_zero
    have value : (if decide (x < 0) then (-1 : ℚ) else 1) * m.natAbs = m := by
      simpa only [decide_eq_true_iff, negative] using sign
    rw [value] at pattern
    exact .inl ⟨m, _, by rw [answer, Except.map], rounding, pattern⟩
  · exact .inr ⟨by rw [failed, Except.map], undetermined⟩

/-! ### The commands -/

/-- A command that ends with the conversion of `OPA` to a format, in the terms of Safety. -/
theorem writes_pattern {f : FloatFormat} (ew : 0 < f.ew) (bias : 64 ≤ f.bias) {i : Instr} {s : State} {sc : Nat}
    {rm : RoundMode} {word : Nat → Word64} (hsc : sc ≤ 18)
    (reads : ∀ P, P < 2 ^ (f.ew + f.fw + 1) → (word P).toNat = P)
    (ends : exec i s = s.finish (do return word (← unscaledToFloat s.opa.toInt sc rm f))) :
    (s.opa = 0 → ∃ t, exec i s = .next t ∧ Succeeds s t 0)
    ∧ (s.opa ≠ 0 → ∃ e : Int, InBinade |(s.opa.toInt : ℚ) / 10 ^ sc| e
      ∧ (Determined rm ((s.opa.toInt : ℚ) / 10 ^ sc * 2 ^ ((f.fw : Int) - e)) →
        ∃ (m : Int) (t : State), RoundsTo rm ((s.opa.toInt : ℚ) / 10 ^ sc * 2 ^ ((f.fw : Int) - e)) m
          ∧ exec i s = .next t ∧ Succeeds s t t.res ∧ NormalPattern f t.res.toNat (m * 2 ^ (e - f.fw)))
      ∧ (¬ Determined rm ((s.opa.toInt : ℚ) / 10 ^ sc * 2 ^ ((f.fw : Int) - e)) →
        ∃ t, exec i s = .next t ∧ Fails s t codeRoundingRequired)) := by
  refine ⟨fun zero => ?zero, fun nonzero => ?nonzero⟩
  case zero =>
    have word_zero : word 0 = 0 := BitVec.eq_of_toNat_eq (reads 0 (by positivity))
    have zero_reading : s.opa.toInt = 0 := by rw [zero]; rfl
    refine ⟨_, ?_, succeed_succeeds s _⟩
    rw [ends, zero_reading, unscaledToFloat, if_pos rfl, except_ok_bind, except_pure, finish_ok, word_zero]
  case nonzero =>
    have x0 : s.opa.toInt ≠ 0 := fun h => nonzero (BitVec.toInt_inj.1 h)
    obtain ⟨e, binade, ⟨m, P, answer, rounding, pattern⟩ | ⟨failed, undetermined⟩⟩ :=
      unscaledToFloat_spec ew bias x0 (MultiplyDivide.fits64_toInt s.opa) hsc rm
    · rw [answer] at ends
      rw [← reads P pattern.width] at pattern
      exact ⟨e, binade, fun _ => ⟨m, _, rounding, ends, succeed_succeeds s _, pattern⟩,
        fun undetermined => absurd (MultiplyDivide.determined_of_roundsTo rounding) undetermined⟩
    · rw [failed] at ends
      exact ⟨e, binade, fun determined => absurd determined undetermined,
        fun _ => ⟨_, ends, fail_fails s .roundingRequired⟩⟩

theorem exec_toDbl (sc : Nat) (rm : RoundMode) (s : State) :
    exec (.toDbl sc rm) s
      = s.finish (do return BitVec.ofNat 64 (← unscaledToFloat s.opa.toInt sc rm double)) := rfl

theorem exec_toFlt (sc : Nat) (rm : RoundMode) (s : State) :
    exec (.toFlt sc rm) s
      = s.finish (do return (BitVec.ofNat 32 (← unscaledToFloat s.opa.toInt sc rm single)).setWidth 64) := rfl

/-- Settles O57: 53 bits of significand, in the whole of `RES`. -/
theorem toDoubleRoundsOnce : Obligations.ToDoubleRoundsOnce := by
  intro sc rm s hsc
  obtain ⟨zero, nonzero⟩ := writes_pattern (f := double) (by decide) (by decide) hsc
    (fun P hP => (BitVec.toNat_ofNat P 64).trans (Nat.mod_eq_of_lt hP)) (exec_toDbl sc rm s)
  refine ⟨zero, fun opa => ?_⟩
  obtain ⟨e, ⟨lo, hi⟩, determined, undetermined⟩ := nonzero opa
  refine ⟨e, lo, hi, fun h => ?_, undetermined⟩
  obtain ⟨m, t, rounding, run, ends, pattern⟩ := determined h
  exact ⟨m, t, rounding, run, ends, pattern.finite, pattern.normal, pattern.value⟩

/-- Settles O58: 24 bits of significand, in the low half of `RES`. -/
theorem toFloatRoundsOnce : Obligations.ToFloatRoundsOnce := by
  intro sc rm s hsc
  have reads (P : Nat) (hP : P < 2 ^ 32) : ((BitVec.ofNat 32 P).setWidth 64).toNat = P := by
    rw [BitVec.toNat_setWidth, BitVec.toNat_ofNat]
    omega
  obtain ⟨zero, nonzero⟩ := writes_pattern (f := single) (by decide) (by decide) hsc reads (exec_toFlt sc rm s)
  refine ⟨zero, fun opa => ?_⟩
  obtain ⟨e, ⟨lo, hi⟩, determined, undetermined⟩ := nonzero opa
  refine ⟨e, lo, hi, fun h => ?_, undetermined⟩
  obtain ⟨m, t, rounding, run, ends, pattern⟩ := determined h
  exact ⟨m, t, rounding, run, ends, pattern.width, pattern.finite, pattern.normal, pattern.value⟩

/-! ### The way back -/

/-- An integer has no other rounding than itself. -/
theorem rounding_of_integer {rm : RoundMode} {k v : Int} (h : RoundsTo rm k v) : v = k := by
  obtain ⟨above, below⟩ := ConvertIntegerDecimal.roundsTo_between h le_rfl le_rfl
  exact le_antisymm below above

/-- Below `2^(FW + 1)` an integer needs no place after the last one of the significand. -/
theorem small_integer_at_last_place {a e : Int} {fw : Nat} (binade : InBinade |(a : ℚ)| e)
    (small : |a| < 2 ^ (fw + 1)) : ∃ k : Int, (a : ℚ) * 2 ^ ((fw : Int) - e) = k := by
  obtain ⟨from_e, _⟩ := binade
  have below : |(a : ℚ)| < 2 ^ ((fw + 1 : Nat) : Int) := by rw [zpow_natCast]; exact_mod_cast small
  have exponent : e < (fw + 1 : Nat) := (zpow_lt_zpow_iff_right₀ one_lt_two).1 (from_e.trans_lt below)
  refine ⟨a * 2 ^ ((fw : Int) - e).toNat, ?_⟩
  obtain ⟨_, power⟩ | ⟨sign, _⟩ := two_zpow_cases ((fw : Int) - e)
  · rw [power]
    push_cast
    rfl
  · omega

/-- A value below 2^53 in magnitude is written, at scale 0, as the double that denotes it, for all modes (R340 (c)). -/
theorem exec_toDbl_small (rm : RoundMode) (s : State) (small : |s.opa.toInt| < 2 ^ 53) :
    ∃ t, exec (.toDbl 0 rm) s = .next t ∧ Succeeds s t t.res
      ∧ FinitePattern 11 52 t.res.toNat ∧ patternValue 11 52 t.res.toNat = (s.opa.toInt : ℚ) := by
  obtain ⟨zero, nonzero⟩ := toDoubleRoundsOnce 0 rm s (by decide)
  by_cases opa : s.opa = 0
  · obtain ⟨t, run, ends⟩ := zero opa
    have res : t.res = 0 := ends.1
    refine ⟨t, run, by rwa [res], ?_, ?_⟩ <;> simp [res, opa, FinitePattern, patternValue]
  · obtain ⟨e, lo, hi, determined, _⟩ := nonzero opa
    rw [pow_zero, div_one] at lo hi determined
    obtain ⟨k, integer⟩ := small_integer_at_last_place (fw := 52) ⟨lo, hi⟩ small
    obtain ⟨m, t, rounding, run, ends, finite, _, value⟩ := determined (.inr ⟨k, integer⟩)
    rw [Nat.cast_ofNat] at integer
    rw [integer] at rounding
    refine ⟨t, run, ends, finite, ?_⟩
    calc patternValue 11 52 t.res.toNat = m * 2 ^ (e - 52) := value
      _ = s.opa.toInt * 2 ^ (52 - e) * 2 ^ (e - 52) := by rw [rounding_of_integer rounding, ← integer]
      _ = s.opa.toInt := by rw [mul_assoc, ← zpow_add₀ two_ne_zero, sub_add_sub_cancel, sub_self, zpow_zero, mul_one]

/-- Settles O59: the way out is exact, and the way back rounds an integer. -/
theorem smallIntegersSurviveADouble : Obligations.SmallIntegersSurviveADouble := by
  intro rm rm' s small
  obtain ⟨t, run, ends, finite, value⟩ := exec_toDbl_small rm s small
  obtain ⟨_, _, status, _⟩ := ends
  refine ⟨t, run, status, finite, value, ?_⟩
  obtain ⟨_, converted⟩ := fromDoubleRoundsTheExactValue 0 rm' { t with opa := t.res }
  obtain ⟨answer, _⟩ := converted finite
  rw [pow_zero, mul_one, value] at answer
  obtain ⟨v, rounding, fitting, _⟩ := answer (.inr ⟨_, rfl⟩)
  rw [rounding_of_integer rounding, BitVec.ofInt_toInt] at fitting
  exact fitting (MultiplyDivide.fits64_toInt s.opa)

end Sys2Proof.ConvertFloat
end
